-- ==== Sys2Proof/Word.lean ====
section
/-! DEFINITION. The word types of the block: 32-bit registers (10_state R21) and 8-bit memory cells (20_memory R50). -/

namespace Sys2Proof

/-- A host register or a command word: 32 bits (10_state R21, 30_encoding R70). -/
abbrev Word := BitVec 32

/-- A memory cell, a sample or a frame byte: an unsigned number 0..255 (00_scope R13). -/
abbrev Byte := BitVec 8

end Sys2Proof
end

