-- ==== Sys2Proof/Syntax.lean ====
section
/-! DEFINITION. The six commands of 30_encoding R71, one constructor per row of the opcode table. No command word carries an
operand (R72): every operand comes from a fixed host register or memory. -/

namespace Sys2Proof

/-- The complete instruction set (40_packer R111). -/
inductive Instr where
  | bitsof  -- BITSOF, 0x1, 40_packer R105
  | byteof  -- BYTEOF, 0x2, R106
  | wrlsb   -- WRLSB, 0x3, R107
  | rdlsb   -- RDLSB, 0x4, R108
  | embed   -- EMBED, 0x8, 41_frame_codec R131
  | decode  -- DECODE, 0x9, R129
  deriving DecidableEq, Repr

end Sys2Proof
end

