-- ==== Sys2Proof/Config.lean ====
section
/-! DEFINITION. The configuration parameters of 00_scope R9 and the free values of R17. Parameters that the spec leaves OPEN and
free values are opaque constants without a body: no proof can see what they are (logs 1, 5, 9). -/

namespace Sys2Proof

/-- The four byte memories (20_memory R50). The fifth space, REG, is the host register file. -/
inductive Space where
  | src | dst | min | mout
  deriving DecidableEq, Repr

/-- The configuration of one block instance (00_scope R9): fixed for the instance, never changed at run time.
`unit` is the model's own label that keeps the free values of two instances apart (log 17); no register shows it. -/
structure Params where
  bufDepth  : Nat
  minDepth  : Nat
  moutDepth : Nat
  m0 : Byte
  m1 : Byte
  m2 : Byte
  unit : Nat
  deriving DecidableEq, Repr

/-- MARKER as a sequence of 3 bytes (00_scope R11). -/
def Params.marker (c : Params) : List Byte := [c.m0, c.m1, c.m2]

/-- Number of byte cells of each memory (20_memory R50). -/
def Params.depth (c : Params) : Space → Nat
  | .src | .dst => c.bufDepth
  | .min => c.minDepth
  | .mout => c.moutDepth

namespace Config

/-- BUF_DEPTH of an instance, OPEN: any natural at most 2^32 - 1 (00_scope R9). R9 fixes it "for one instance", and the spec does
not say whether instances differ: each has its own constant, so they may (log 17). -/
opaque bufDepthWord (unit : Nat) : Word

/-- MIN_DEPTH of an instance, OPEN: any natural at most 2^32 - 1 (00_scope R9; log 17). -/
opaque minDepthWord (unit : Nat) : Word

/-- How far MOUT_DEPTH of an instance exceeds its lower bound, OPEN: any natural (00_scope R9; log 17). -/
opaque moutSlack (unit : Nat) : Nat

/-- NUM_INSTANCES less one, OPEN: any natural (00_scope R9). -/
opaque extraInstances : Nat

/-- The parameters of instance `unit`: depths OPEN under R9's constraints, each instance's its own (log 17), MARKER = "stg" for every
instance (00_scope R9, R11: the value for this hardware). -/
def params (unit : Nat) : Params where
  bufDepth  := (bufDepthWord unit).toNat
  minDepth  := (minDepthWord unit).toNat
  moutDepth := (bufDepthWord unit).toNat / 8 - 4 + moutSlack unit
  m0 := 0x73
  m1 := 0x74
  m2 := 0x67
  unit := unit

/-- NUM_INSTANCES: OPEN, at least 1 (00_scope R9, 60_exceptions R172). -/
def numInstances : Nat := extraInstances + 1

/-- A free draw for one memory cell (00_scope R17, 70_reset R181, 41_frame_codec R130): of instance `unit`, draw number `draw`. -/
opaque freeCell (unit draw : Nat) (sp : Space) (a : Nat) : Byte

/-- A free draw of 32 bits (00_scope R17): of instance `unit`, draw number `draw`, for the purpose `what`. -/
opaque freeWord (unit draw what : Nat) : Word

/-- A free draw of the interleaving: how many host accesses are performed before the engine's next micro-step (70_reset R193). -/
opaque hostSlots (unit n : Nat) : Nat

end Config

end Sys2Proof
end

