-- ==== Sys2Proof/WellFormed.lean ====
section
/-! DEFINITION. What a well-formed term is: command words (30_encoding R73, R74), the marker (00_scope R11) and the parameters
(00_scope R9). An `Instr` has no operand (30_encoding R72), so each constructor is well formed as it stands. -/

namespace Sys2Proof

/-- A command carries no field that could be out of range (30_encoding R72). -/
def Instr.wellFormed : Instr → Bool
  | .bitsof | .byteof | .wrlsb | .rdlsb | .embed | .decode => true

/-- RSVD, bits 31:4, must be zero (30_encoding R70, R73). -/
def rsvdClear (w : Word) : Bool := w.extractLsb' 4 28 == 0

/-- OPCODE, bits 3:0, must be one of the six defined codes (30_encoding R71). -/
def opcodeDefined (w : Word) : Bool := [0x1, 0x2, 0x3, 0x4, 0x8, 0x9].contains (w.extractLsb' 0 4)

/-- A legal command word (30_encoding R74: illegal if RSVD is not zero or OPCODE is not defined). -/
def wordWellFormed (w : Word) : Bool := rsvdClear w && opcodeDefined w

/-- A marker byte is in 0x01..0x7F (00_scope R11). -/
def markerByteOk (b : Byte) : Bool := decide (0x01 ≤ b.toNat ∧ b.toNat ≤ 0x7F)

/-- MARKER has exactly 3 bytes, each 0x01..0x7F (00_scope R11). -/
def markerWellFormed (m : List Byte) : Bool := m.length == 3 && m.all markerByteOk

/-- The constraints of 00_scope R9 and R11 on the parameters of an instance. -/
def Params.wellFormed (c : Params) : Bool :=
  decide (c.bufDepth ≤ 2 ^ 32 - 1) && decide (c.minDepth ≤ 2 ^ 32 - 1)
    && decide (max 0 (c.bufDepth / 8 - 4) ≤ c.moutDepth) && markerWellFormed c.marker

end Sys2Proof
end

