-- ==== Sys2Proof/Decode.lean ====
section
/-! DEFINITION. The decoder of 30_encoding R75, total on every 32-bit word, and after it the encoder of R71. -/

namespace Sys2Proof

/-- Why a command word is illegal (30_encoding R74). -/
inductive DecodeError where
  | reservedBits     -- some bit of RSVD, bits 31:4, is set (R73)
  | undefinedOpcode  -- RSVD is zero and OPCODE is one of 0x0, 0x5..0x7, 0xA..0xF
  deriving DecidableEq, Repr

/-- OPCODE, bits 3:0 of a command word (30_encoding R70). -/
def opcodeOf (w : Word) : BitVec 4 := w.extractLsb' 0 4

/-- RSVD, bits 31:4 of a command word (30_encoding R70). -/
def rsvdOf (w : Word) : BitVec 28 := w.extractLsb' 4 28

/-- The decode procedure of 30_encoding R75. -/
def decode (w : Word) : Except DecodeError Instr :=
  if rsvdOf w ≠ 0 then .error .reservedBits
  else if opcodeOf w = 0x1 then .ok .bitsof
  else if opcodeOf w = 0x2 then .ok .byteof
  else if opcodeOf w = 0x3 then .ok .wrlsb
  else if opcodeOf w = 0x4 then .ok .rdlsb
  else if opcodeOf w = 0x8 then .ok .embed
  else if opcodeOf w = 0x9 then .ok .decode
  else .error .undefinedOpcode

/-- The six defined command words (30_encoding R71). -/
def encode : Instr → Word
  | .bitsof => 0x00000001
  | .byteof => 0x00000002
  | .wrlsb  => 0x00000003
  | .rdlsb  => 0x00000004
  | .embed  => 0x00000008
  | .decode => 0x00000009

/-- The word that `nbits` bits `w` of the opcode table stand for: bits above `nbits` are zero (log 15). -/
def tableWord (nbits w : Nat) : Nat := w % 2 ^ nbits

/-- The instruction the decoder reads from a row's bits. A command is one 32-bit word (30_encoding R70): bits that do not fit in
one word are no command (log 15). -/
def decodeTableWord (nbits w : Nat) : Option Instr :=
  if tableWord nbits w < 2 ^ 32 then
    match decode (BitVec.ofNat 32 (tableWord nbits w)) with
    | .ok i => some i
    | .error _ => none
  else none

end Sys2Proof
end

