-- ==== Sys2Proof/Machine/State.lean ====
section
/-! DEFINITION. The state of one block instance (10_state R20) as plain data, with its configuration (00_scope R9), the host's
queue of accesses, and the state after reset (10_state R42). -/

namespace Sys2Proof.Machine

/-- One byte memory: the cells written since reset, addresses strictly rising (20_memory R50). A cell not listed holds the free
draw that `State.cell` gives (70_reset R181; log 4). -/
abbrev Memory := List Host.Cell

/-- The scanner's state (10_state R40, 41_frame_codec R125). -/
inductive ScanState where
  | scanning | terminated | exhausted
  deriving DecidableEq, Repr

/-- The packer commands, run in phase PRIM (41_frame_codec R140). -/
inductive Prim where
  | bitsof | byteof | wrlsb | rdlsb
  deriving DecidableEq, Repr

/-- The codec commands, whose first phase is SCAN (41_frame_codec R140). -/
inductive Codec where
  | embed | decode
  deriving DecidableEq, Repr

/-- The phases of 10_state R40 other than IDLE, with the command each belongs to (41_frame_codec R140): CAPCHK and WRITE are
EMBED's, OUTPUT is DECODE's. Phase IDLE is `Engine.idle`. -/
inductive Stage where
  | prim (op : Prim)
  | scan (c : Codec)
  | capchk
  | write
  | output
  deriving DecidableEq, Repr

/-- `pfx` of 10_state R40: the first accumulated bytes, 3 x 8 bits. -/
structure Pfx where
  b0 : Byte
  b1 : Byte
  b2 : Byte
  deriving DecidableEq, Repr

/-- The engine's internal registers (10_state R40), other than `phase`. -/
structure Work where
  scan   : ScanState
  g      : BitVec 32
  j      : BitVec 3
  sh     : Byte
  accLen : BitVec 32
  pfx    : Pfx
  i      : BitVec 32
  k      : BitVec 32
  deriving DecidableEq, Repr

/-- A command in progress. `n` and `l` are BUF_LEN and MSG_IN_LEN as read at command acceptance (41_frame_codec, before R120; log
7); `disturbed` says that the host wrote an input during the command (70_reset R185; log 10); `draw` is the free draw the command
may use (log 5); `slots` is how many host accesses still come before the engine's next micro-step (log 9). -/
structure Job where
  stage     : Stage
  work      : Work
  n         : Word
  l         : Word
  disturbed : Bool
  draw      : Nat
  slots     : Nat
  deriving DecidableEq, Repr

/-- The engine (10_state R40). `idle d` is phase IDLE; the other entries are then unspecified, namely `Work.free` of draw `d`
(log 6). STATUS.BUSY is 1 exactly while the engine is running (10_state R24, R27). -/
inductive Engine where
  | idle (draw : Nat)
  | running (job : Job)
  deriving DecidableEq, Repr

/-- The stored fields of STATUS (10_state R23). BUSY is the engine's; reserved bits have no storage. `err` and `scan` are the bit
fields themselves, since a disturbed command may leave any value of the width (70_reset R185). -/
structure Status where
  done : Bool
  err  : BitVec 4
  scan : BitVec 2
  pfx  : Bool
  deriving DecidableEq, Repr

/-- What a host read returned (30_encoding R76): a register word or a memory byte. -/
inductive Reading where
  | word (v : Word)
  | byte (v : Byte)
  deriving DecidableEq, Repr

/-- One input from outside the block: a host access (30_encoding R76), the data-dependent forms that R77's `poll` and `copy` and
a `wr REG, t` of a value just read need, or the platform's reset (70_reset R180). -/
inductive Event where
  | wr (off : Byte) (v : Word)                 -- host writes word `v` at REG offset `off`
  | rd (off : Byte)                            -- host reads the word at REG offset `off`
  | wrb (sp : Space) (a : Nat) (v : Byte)      -- host writes byte `v` to cell `a`
  | rdb (sp : Space) (a : Nat)                 -- host reads cell `a`
  | poll                                       -- host reads STATUS until BUSY = 0 (R77)
  | wrLast (off : Byte)                        -- `wr REG, t`, `t` the value of the host's last read
  | wrbLast (sp : Space) (a : Nat)             -- `wrb SPACE[a], t`, `t` the byte of the host's last read
  | reset                                      -- the reset input is asserted (70_reset R180)
  deriving DecidableEq, Repr

/-- The two forms of performing a command (41_frame_codec R140; log 2). -/
inductive Form where
  | atomic   -- one transition from acceptance to `finish`
  | stepped  -- micro-steps through the engine's phases
  deriving DecidableEq, Repr

/-- The state of one block instance. After the spec's own state come the model's fields: `epoch`, `draws` and `sched` name free
values (logs 4, 5, 9), `form` is R140's choice (log 2), `inbox` and `outbox` are the host's side of the interface (log 3). -/
structure State where
  cfg       : Params
  bufLen    : Word
  msgInLen  : Word
  msgOutLen : Word
  opa       : Word
  opb       : Word
  result    : Word
  status    : Status
  src       : Memory
  dst       : Memory
  min       : Memory
  mout      : Memory
  engine    : Engine
  epoch     : Nat
  draws     : Nat
  sched     : Nat
  form      : Form
  inbox     : List Event
  outbox    : List Reading
  deriving DecidableEq, Repr

/-- The block has no trap and no fault (60_exceptions R160, R166): a failing command ends with `finish`. No constructor: nothing
raises a fault, which is neither safe nor unsafe since the spec has no such event (log 18). -/
inductive Fault where
  deriving DecidableEq, Repr

/-- Why the model gives an instruction no meaning. -/
inductive Refusal where
  /-- Raised by an arm of `exec` for an instruction without a meaning yet; safe. No arm raises it: all six have one. -/
  | notModelled (mnemonic : String)
  deriving DecidableEq, Repr

/-- The state after reset (10_state R42): every host register 0, the engine idle, no memory cell listed (every cell a free draw,
70_reset R181), no access pending. The parameters are the OPEN ones of instance 0. The model's own fields: logs 2, 3, 5, 9. -/
def State.reset : State where
  cfg       := Config.params 0
  bufLen    := 0
  msgInLen  := 0
  msgOutLen := 0
  opa       := 0
  opb       := 0
  result    := 0
  status    := { done := false, err := 0, scan := 0, pfx := false }
  src       := []
  dst       := []
  min       := []
  mout      := []
  engine    := .idle 0
  epoch     := 0
  draws     := 1
  sched     := 0
  form      := .atomic
  inbox     := []
  outbox    := []

end Sys2Proof.Machine
end

