-- ==== Sys2Proof/Machine/Flags.lean ====
section
/-! DEFINITION. STATUS: the outcome codes (10_state R26), the scanner codes (R28), BUSY (R24) and the register's word (R23). -/

namespace Sys2Proof.Machine

/-- The outcomes a command can finish with (10_state R26). -/
inductive Code where
  | success | tooLarge | alreadyEncoded | noMessage | malformed | badArg | illegal
  deriving DecidableEq, Repr

/-- STATUS.ERR of an outcome (10_state R26). -/
def Code.bits : Code → BitVec 4
  | .success        => 0x0
  | .tooLarge       => 0x1
  | .alreadyEncoded => 0x2
  | .noMessage      => 0x3
  | .malformed      => 0x4
  | .badArg         => 0xE
  | .illegal        => 0xF

/-- STATUS.SCAN: 0 = NONE, no scan ran; else the scanner's state (10_state R28). -/
def scanBits : Option ScanState → BitVec 2
  | none             => 0
  | some .scanning   => 1
  | some .terminated => 2
  | some .exhausted  => 3

/-- Whether the engine is performing a command. -/
def Engine.isRunning : Engine → Bool
  | .idle _ => false
  | .running _ => true

/-- STATUS.BUSY: 1 from command acceptance until `finish` (10_state R24, R27). -/
def State.busy (s : State) : Bool := s.engine.isRunning

/-- The STATUS word of its fields; bits 3:2 and 31:11 read 0 (10_state R23). -/
def packStatus (busy done : Bool) (err : BitVec 4) (scan : BitVec 2) (pfx : Bool) : Word :=
  (BitVec.ofBool busy).setWidth 32
    ||| (BitVec.ofBool done).setWidth 32 <<< 1
    ||| err.setWidth 32 <<< 4
    ||| scan.setWidth 32 <<< 8
    ||| (BitVec.ofBool pfx).setWidth 32 <<< 10

/-- The STATUS register as stored (10_state R23). While BUSY = 1 a host read does not see the stored ERR, SCAN and PREFIX
(`State.readStatus`). -/
def State.statusWord (s : State) : Word :=
  packStatus s.busy s.status.done s.status.err s.status.scan s.status.pfx

/-- STATUS after `finish(code, scan, pfx)` (10_state R27): DONE is 1. -/
def Status.finished (code : Code) (scan : Option ScanState) (pfx : Bool) : Status :=
  { done := true, err := code.bits, scan := scanBits scan, pfx := pfx }

end Sys2Proof.Machine
end

