-- ==== Sys2Proof/Machine/Ops.lean ====
section
/-! DEFINITION. The shared operations over memories, registers and the engine: one byte read and written, ranges of cells, free
draws, and `finish`, the single completion action of every command. The block has no exception to take and none to return from
(60_exceptions R166): a failure, too, is `finish` with its code (R160). -/

namespace Sys2Proof.Machine

/-! ## One byte memory -/

/-- The canonical form: addresses strictly rising. An address not listed reads as `none`, so no entry can equal what an unlisted
address reads as (log 4). -/
abbrev Memory.wf (m : Memory) : Prop := m.Pairwise (fun p q => p.1 < q.1)

/-- The byte written last at address `a`, or `none` where nothing has been written since reset. -/
def Memory.read? : Memory → Nat → Option Byte
  | [], _ => none
  | (k, v) :: m, a => if k = a then some v else Memory.read? m a

/-- Write one byte, keeping the addresses strictly rising (`MemWrite(space, a, 1, v)`, 00_scope R16). -/
def Memory.write : Memory → Nat → Byte → Memory
  | [], a, v => [(a, v)]
  | (k, w) :: m, a, v =>
    if a < k then (a, v) :: (k, w) :: m
    else if a = k then (a, v) :: m
    else (k, w) :: Memory.write m a v

/-- Write cells `0 .. n-1` in that order, cell `a` with `f a`. -/
def Memory.fill (f : Nat → Byte) : Nat → Memory → Memory
  | 0, m => m
  | n + 1, m => (Memory.fill f n m).write n (f n)

/-! ## The four memories of the state -/

/-- The memory of a space (20_memory R50). -/
def State.mem (s : State) : Space → Memory
  | .src  => s.src
  | .dst  => s.dst
  | .min  => s.min
  | .mout => s.mout

/-- Replace the memory of a space. -/
def State.setMem (s : State) (sp : Space) (m : Memory) : State :=
  match sp with
  | .src  => { s with src := m }
  | .dst  => { s with dst := m }
  | .min  => { s with min := m }
  | .mout => { s with mout := m }

/-- What a cell that nothing has written since the last reset holds: a free draw (70_reset R181; log 4). -/
def State.unwritten (s : State) (sp : Space) (a : Nat) : Byte := Config.freeCell s.cfg.unit s.epoch sp a

/-- `MemRead(space, a, 1)`: the byte in cell `a` (00_scope R16). Reading changes nothing and is repeatable (20_memory R60). -/
def State.cell (s : State) (sp : Space) (a : Nat) : Byte :=
  ((s.mem sp).read? a).getD (s.unwritten sp a)

/-- `MemWrite(space, a, 1, v)` (00_scope R16). -/
def State.setCell (s : State) (sp : Space) (a : Nat) (v : Byte) : State :=
  s.setMem sp ((s.mem sp).write a v)

/-- Write cells `0 .. n-1` of a space in that order, cell `a` with `f a`. -/
def State.fill (s : State) (sp : Space) (f : Nat → Byte) (n : Nat) : State :=
  s.setMem sp (Memory.fill f n (s.mem sp))

/-- Cells `0 .. n-1` of a space come to hold unspecified values: the free draws number `d` (00_scope R17). -/
def State.spoil (s : State) (d : Nat) (sp : Space) (n : Nat) : State :=
  s.fill sp (Config.freeCell s.cfg.unit d sp) n

/-! ## Free draws -/

/-- Take the next free draw: its number is `s.draws` (log 5). -/
def State.nextDraw (s : State) : State := { s with draws := s.draws + 1 }

/-- Take the next draw of the interleaving: its number is `s.sched` (log 9). -/
def State.nextSched (s : State) : State := { s with sched := s.sched + 1 }

/-- A scanner state from a free word: every one of the three can be drawn. -/
def freeScanState (w : Word) : ScanState :=
  match w.toNat % 3 with
  | 0 => .scanning
  | 1 => .terminated
  | _ => .exhausted

/-- The engine's registers where nothing specifies them (10_state R40, 93 I-19): free draw number `d` (log 6). -/
def Work.free (unit d : Nat) : Work where
  scan   := freeScanState (Config.freeWord unit d 1)
  g      := Config.freeWord unit d 2
  j      := (Config.freeWord unit d 3).setWidth 3
  sh     := (Config.freeWord unit d 4).setWidth 8
  accLen := Config.freeWord unit d 5
  pfx    := { b0 := (Config.freeWord unit d 6).setWidth 8
              b1 := (Config.freeWord unit d 7).setWidth 8
              b2 := (Config.freeWord unit d 8).setWidth 8 }
  i      := Config.freeWord unit d 9
  k      := Config.freeWord unit d 10

/-- STATUS as a disturbed command leaves it (70_reset R185): DONE is 1, ERR, SCAN and PREFIX are free draws. -/
def Status.free (unit d : Nat) : Status where
  done := true
  err  := (Config.freeWord unit d 11).setWidth 4
  scan := (Config.freeWord unit d 12).setWidth 2
  pfx  := (Config.freeWord unit d 13).getLsbD 0

/-- MSG_OUT_LEN as a disturbed command leaves it (70_reset R185). -/
def freeMsgOutLen (unit d : Nat) : Word := Config.freeWord unit d 14

/-- RESULT as a disturbed command leaves it (70_reset R185). -/
def freeResult (unit d : Nat) : Word := Config.freeWord unit d 18

/-- What a busy-time read of STATUS takes ERR, SCAN and PREFIX from (70_reset R186; log 11). -/
def freeStatusRead (unit d : Nat) : Word := Config.freeWord unit d 15

/-- What a busy-time read of MSG_OUT_LEN returns (70_reset R186; log 11). -/
def freeMsgOutLenRead (unit d : Nat) : Word := Config.freeWord unit d 16

/-- What a busy-time read of RESULT returns (70_reset R186; log 11). -/
def freeResultRead (unit d : Nat) : Word := Config.freeWord unit d 19

/-- The value of a host variable that no read has set (log 19). -/
def freeHostVar (unit d : Nat) : Word := Config.freeWord unit d 17

/-- Replace the host's pending accesses. -/
def State.setInbox (s : State) (q : List Event) : State := { s with inbox := q }

/-! ## The engine -/

/-- The engine's registers: while IDLE they are unspecified, the free draw that IDLE names (10_state R40; log 6). -/
def State.work (s : State) : Work :=
  match s.engine with
  | .idle d => Work.free s.cfg.unit d
  | .running job => job.work

/-- The number of the free draw an engine holds. -/
def Engine.draw : Engine → Nat
  | .idle d => d
  | .running job => job.draw

/-- `finish(code, scan, pfx)` (10_state R27): STATUS written, DONE 1, BUSY 0, the engine back in IDLE, all at one instant. `d` is
the free draw that names the engine's registers from now on. -/
def State.finish (s : State) (d : Nat) (code : Code) (scan : Option ScanState) (pfx : Bool) : State :=
  { s with status := Status.finished code scan pfx, engine := .idle d }

/-- What a DECODE that fails with NO_MESSAGE or MALFORMED leaves (41_frame_codec R130): MSG_OUT_LEN is 0 and MOUT cells
`0 .. capacity-1` below MOUT_DEPTH are unspecified, draw number `d` (log 12). -/
def State.decodeFailed (s : State) (d capacity : Nat) : State :=
  { s.spoil d .mout (Nat.min capacity s.cfg.moutDepth) with msgOutLen := 0 }

end Sys2Proof.Machine
end

