-- ==== Sys2Proof/Machine/Operands.lean ====
section
/-! DEFINITION. Operand assembly (30_encoding R72): no command word carries an immediate or a register number; every operand comes
from a fixed host register or memory. -/

namespace Sys2Proof.Machine

/-- `zext_32(v)` of a byte (00_scope R14). -/
def zext32 (b : Byte) : Word := b.setWidth 32

/-- The byte operand of the packer commands, OPA[7:0] (10_state R34). -/
def State.opaByte (s : State) : Byte := s.opa.extractLsb' 0 8

/-- The bit operand of WRLSB, OPB[0] (10_state R35). -/
def State.opbBit (s : State) : Bool := s.opb.getLsbD 0

/-- `n`: the full 32-bit BUF_LEN as an unsigned number (10_state R30). -/
def State.n (s : State) : Nat := s.bufLen.toNat

/-- `L`: the full 32-bit MSG_IN_LEN as an unsigned number (10_state R31). -/
def State.l (s : State) : Nat := s.msgInLen.toNat

/-- Sample `i` of the input Pixel Buffer: SRC cell `i` (20_memory R51). -/
def State.sample (s : State) (i : Nat) : Byte := s.cell .src i

/-- Byte `k` of the message to embed: MIN cell `k` (20_memory R53). -/
def State.msgByte (s : State) (k : Nat) : Byte := s.cell .min k

/-- The message to embed, MIN[0 .. L) (41_frame_codec R131). -/
def State.message (s : State) (l : Nat) : List Byte := (List.range l).map s.msgByte

end Sys2Proof.Machine
end

