-- ==== Sys2Proof/Machine/Primitives.lean ====
section
/-! DEFINITION. The four primitive functions of the packer (40_packer R100 to R103), the register form of a bit sequence (R104)
and the serial-converter form (R110). A bit is a `Bool`; a bit sequence is a list, element 0 first in time (00_scope R15). -/

namespace Sys2Proof.Machine

/-- A bit as an 8-bit number 0 or 1. -/
def bit8 (b : Bool) : Byte := (BitVec.ofBool b).setWidth 8

/-- The 8 bits of one byte, MSB first (40_packer R100). -/
def bitsOfByte (b : Byte) : List Bool := (List.range 8).map (fun q => b.getLsbD (7 - q))

/-- `bitsOf(bytes)` (40_packer R100): byte outer, bit inner, MSB first. -/
def bitsOf (bs : List Byte) : List Bool := bs.flatMap bitsOfByte

/-- `byteOf` of exactly eight bits (40_packer R101). -/
def byteOf8 (s0 s1 s2 s3 s4 s5 s6 s7 : Bool) : Byte :=
  bit8 s0 <<< 7 ||| bit8 s1 <<< 6 ||| bit8 s2 <<< 5 ||| bit8 s3 <<< 4
    ||| bit8 s4 <<< 3 ||| bit8 s5 <<< 2 ||| bit8 s6 <<< 1 ||| bit8 s7

/-- `byteOf(bits8)` (40_packer R101): refuses any length other than 8, never pads or truncates (93 I-1). -/
def byteOf : List Bool → Option Byte
  | [s0, s1, s2, s3, s4, s5, s6, s7] => some (byteOf8 s0 s1 s2 s3 s4 s5 s6 s7)
  | _ => none

/-- `writeBitToLSB(s, b) = (s & 0xFE) | b` (40_packer R102). -/
def writeBitToLSB (s : Byte) (b : Bool) : Byte := (s &&& 0xFE) ||| bit8 b

/-- `readLSB(s) = s & 0x01`, as a bit (40_packer R103). -/
def readLSB (s : Byte) : Bool := (s &&& 0x01) == 1

/-- The register byte of an 8-bit sequence: element `k` in bit `k` (40_packer R104). -/
def seqWord : List Bool → Byte
  | [] => 0
  | b :: bs => bit8 b ||| seqWord bs <<< 1

/-- The 8-bit sequence of a register byte: element `k` is bit `k` (40_packer R104). -/
def wordSeq (w : Byte) : List Bool := (List.range 8).map w.getLsbD

/-! ## Serial form (40_packer R110) -/

/-- One step of the deserialiser: `sh <- ((sh << 1) | t) & 0xFF`. -/
def shiftIn (sh : Byte) (t : Bool) : Byte := sh <<< 1 ||| bit8 t

/-- The bit the serialiser emits from `sh`: `sh[7]`. -/
def shiftOutBit (sh : Byte) : Bool := sh.getLsbD 7

/-- `sh` after the serialiser emitted a bit: `(sh << 1) & 0xFF`. -/
def shiftOut (sh : Byte) : Byte := sh <<< 1

/-- The serialiser's output over `q` steps from `sh`. -/
def serialBits : Nat → Byte → List Bool
  | 0, _ => []
  | q + 1, sh => shiftOutBit sh :: serialBits q (shiftOut sh)

/-- The deserialiser's `sh` after consuming a bit sequence, from `sh`. -/
def serialByte : Byte → List Bool → Byte
  | sh, [] => sh
  | sh, t :: ts => serialByte (shiftIn sh t) ts

end Sys2Proof.Machine
end

