-- ==== Sys2Proof/Machine/Frame.lean ====
section
/-! DEFINITION. The frame format and the decoder as pure functions (41_frame_codec R120 to R128). A Pixel Buffer is a function
from sample index to sample; only indices below its length `n` are ever used. -/

namespace Sys2Proof.Machine

/-- The Terminator, "the single byte `0x00`" (00_scope R12). -/
def terminator : Byte := 0x00

/-- `frame(m) = MARKER ++ m ++ [0x00]` (41_frame_codec R120). -/
def frame (c : Params) (m : List Byte) : List Byte := c.marker ++ m ++ [terminator]

/-- `capacity(n) = floor(n / 8)`, bytes of frame space (41_frame_codec R122). -/
def capacity (n : Nat) : Nat := n / 8

/-- `required(L) = 3 + L + 1`, exact on naturals (41_frame_codec R123). -/
def required (l : Nat) : Nat := 3 + l + 1

/-- `groupByte(buf, g)`: `byteOf` of the LSBs of samples `8g .. 8g+7` (41_frame_codec R124). -/
def groupByte (buf : Nat → Byte) (g : Nat) : Byte :=
  byteOf8 (readLSB (buf (8 * g))) (readLSB (buf (8 * g + 1))) (readLSB (buf (8 * g + 2))) (readLSB (buf (8 * g + 3)))
    (readLSB (buf (8 * g + 4))) (readLSB (buf (8 * g + 5))) (readLSB (buf (8 * g + 6))) (readLSB (buf (8 * g + 7)))

/-- The scanner's loop (41_frame_codec R125) with `left` complete groups still to read, the next of them group `g`: `8*(g+1) > n`
holds exactly when none is left. -/
def scanFrom (buf : Nat → Byte) : (left g : Nat) → (acc : List Byte) → ScanState × List Byte
  | 0, _, acc => (.exhausted, acc)
  | left + 1, g, acc =>
    if groupByte buf g = terminator then (.terminated, acc)
    else scanFrom buf left (g + 1) (acc ++ [groupByte buf g])

/-- `scan(buf, n)` (41_frame_codec R125): the terminal state and the accumulated bytes. -/
def scan (buf : Nat → Byte) (n : Nat) : ScanState × List Byte := scanFrom buf (capacity n) 0 []

/-- `hasPrefix(acc)`: an exact match on bytes 0, 1 and 2 (41_frame_codec R127, R128). -/
def hasMarker (c : Params) (acc : List Byte) : Bool := decide (3 ≤ acc.length) && acc.take 3 == c.marker

/-- What a scan is classified as (41_frame_codec R127). -/
inductive Class where
  | success (msg : List Byte)
  | noMessage
  | malformed
  deriving DecidableEq, Repr

/-- `classify(state, acc)` (41_frame_codec R127). A scan never ends in SCANNING (10_state R28): that arm is not reached. -/
def classify (c : Params) (st : ScanState) (acc : List Byte) : Class :=
  match st, hasMarker c acc with
  | .exhausted,  false => .noMessage
  | .exhausted,  true  => .malformed
  | .terminated, false => .noMessage
  | .terminated, true  => .success (acc.drop 3)
  | .scanning,   _     => .noMessage

/-- `decodeResult(buf, n) = classify(scan(buf, n))` (41_frame_codec R127). -/
def decodeResult (c : Params) (buf : Nat → Byte) (n : Nat) : Class := classify c (scan buf n).1 (scan buf n).2

/-- Sample `i` of the buffer EMBED returns (41_frame_codec R134): the frame bit in the LSB below `8 * required(L)`, a copy
beyond it. `bits` is `bitsOf(frame(m))`. -/
def embedSample (buf : Nat → Byte) (bits : List Bool) (i : Nat) : Byte :=
  match bits[i]? with
  | some b => writeBitToLSB (buf i) b
  | none => buf i

end Sys2Proof.Machine
end

