-- ==== Sys2Proof/Machine/Codec.lean ====
section
/-! DEFINITION. The codec commands DECODE and EMBED (41_frame_codec R129, R131) as atomic transitions (R140). -/

namespace Sys2Proof.Machine

/-- DECODE after a scan that classifies as SUCCESS (41_frame_codec R129, R130): MOUT cells `0 .. len-1` hold the message,
MSG_OUT_LEN its length. -/
def State.decodeSucceeded (s : State) (msg : List Byte) : State :=
  { s.fill .mout (fun k => msg.getD k 0) msg.length with msgOutLen := BitVec.ofNat 32 msg.length }

/-- DECODE's transition (41_frame_codec R129), with `d` its free draw. -/
def State.decodeDone (s : State) (d : Nat) : State :=
  if s.cfg.bufDepth < s.n then s.finish d .badArg none false
  else
    let r := scan s.sample s.n
    match classify s.cfg r.1 r.2 with
    | .success msg => (s.decodeSucceeded msg).finish d .success (some .terminated) true
    | .noMessage => (s.decodeFailed d (capacity s.n)).finish d .noMessage (some r.1) (hasMarker s.cfg r.2)
    | .malformed => (s.decodeFailed d (capacity s.n)).finish d .malformed (some .exhausted) true

/-- EMBED's transition (41_frame_codec R131), with `d` the draw that names the engine's registers afterwards: BAD_ARG, then the
duplicate-frame check (R132), then the capacity check (R133), then DST (R134). -/
def State.embedDone (s : State) (d : Nat) : State :=
  if s.cfg.bufDepth < s.n ∨ s.cfg.minDepth < s.l then s.finish d .badArg none false
  else
    let r := scan s.sample s.n
    let p := hasMarker s.cfg r.2
    match classify s.cfg r.1 r.2 with
    | .success _ => s.finish d .alreadyEncoded (some r.1) p
    | .noMessage | .malformed =>
      if capacity s.n < required s.l then s.finish d .tooLarge (some r.1) p
      else
        (s.fill .dst (embedSample s.sample (bitsOf (frame s.cfg (s.message s.l)))) s.n).finish d .success (some r.1) p

/-- EMBED (41_frame_codec R131). -/
def execEmbed (s : State) : Host.Outcome State Fault Refusal := .next (s.nextDraw.embedDone s.draws)

/-- DECODE (41_frame_codec R129). -/
def execDecode (s : State) : Host.Outcome State Fault Refusal := .next (s.nextDraw.decodeDone s.draws)

end Sys2Proof.Machine
end

