-- ==== Sys2Proof/Machine/Packer.lean ====
section
/-! DEFINITION. The packer commands BITSOF, BYTEOF, WRLSB and RDLSB (40_packer R105 to R108) as atomic transitions
(41_frame_codec R140). They read only OPA and OPB, write only RESULT and STATUS, and always finish with SUCCESS. -/

namespace Sys2Proof.Machine

/-- RESULT of BITSOF: `zext_32(seqWord(bitsOf([OPA[7:0]])))` (40_packer R105). -/
def State.bitsofResult (s : State) : Word := zext32 (seqWord (bitsOf [s.opaByte]))

/-- RESULT of BYTEOF: `zext_32(byteOf(wordSeq(OPA[7:0])))` (40_packer R106). `wordSeq` has exactly 8 elements, so `byteOf`
answers; the other branch is never taken. -/
def State.byteofResult (s : State) : Word :=
  match byteOf (wordSeq s.opaByte) with
  | some b => zext32 b
  | none => 0

/-- RESULT of WRLSB: `zext_32(writeBitToLSB(OPA[7:0], OPB[0]))` (40_packer R107). -/
def State.wrlsbResult (s : State) : Word := zext32 (writeBitToLSB s.opaByte s.opbBit)

/-- RESULT of RDLSB: `zext_32(readLSB(OPA[7:0]))` (40_packer R108). -/
def State.rdlsbResult (s : State) : Word := zext32 (bit8 (readLSB s.opaByte))

/-- What the packer commands share: RESULT is written, then `finish(SUCCESS)` (40_packer, section 2). -/
def State.packerDone (s : State) (r : Word) : State :=
  { s.nextDraw with result := r }.finish s.draws .success none false

/-- BITSOF (40_packer R105). -/
def execBitsof (s : State) : Host.Outcome State Fault Refusal := .next (s.packerDone s.bitsofResult)

/-- BYTEOF (40_packer R106). -/
def execByteof (s : State) : Host.Outcome State Fault Refusal := .next (s.packerDone s.byteofResult)

/-- WRLSB (40_packer R107). -/
def execWrlsb (s : State) : Host.Outcome State Fault Refusal := .next (s.packerDone s.wrlsbResult)

/-- RDLSB (40_packer R108). -/
def execRdlsb (s : State) : Host.Outcome State Fault Refusal := .next (s.packerDone s.rdlsbResult)

end Sys2Proof.Machine
end

