-- ==== Sys2Proof/Machine/Dispatch.lean ====
section
/-! DEFINITION. One arm per command: the atomic form of 41_frame_codec R140, from acceptance to `finish`. -/

namespace Sys2Proof.Machine

def exec (i : Instr) (s : State) : Host.Outcome State Fault Refusal :=
  match i with
  | .bitsof => Sys2Proof.Machine.execBitsof s
  | .byteof => Sys2Proof.Machine.execByteof s
  | .wrlsb => Sys2Proof.Machine.execWrlsb s
  | .rdlsb => Sys2Proof.Machine.execRdlsb s
  | .embed => Sys2Proof.Machine.execEmbed s
  | .decode => Sys2Proof.Machine.execDecode s

end Sys2Proof.Machine
end

