-- ==== Sys2Proof/Machine/Engine.lean ====
section
/-! DEFINITION. The engine form of 41_frame_codec R140: a command is accepted, passes through the phases of 10_state R40 one
micro-step at a time, and ends with `finish`. `State.engineStep` is one micro-step of a running engine. -/

namespace Sys2Proof.Machine

/-- The first phase of a command (41_frame_codec R140). -/
def firstStage : Instr → Stage
  | .bitsof => .prim .bitsof
  | .byteof => .prim .byteof
  | .wrlsb  => .prim .wrlsb
  | .rdlsb  => .prim .rdlsb
  | .embed  => .scan .embed
  | .decode => .scan .decode

/-- The engine's registers at acceptance: a scan starts from `g = 0, j = 0, sh = 0, accLen = 0, scan = SCANNING`
(41_frame_codec R126); the entries no rule has set yet keep their unspecified values (log 6). -/
def Work.start (w : Work) : Work := { w with scan := .scanning, g := 0, j := 0, sh := 0, accLen := 0 }

/-- Acceptance of a command by the engine form: BUSY 1, DONE 0 (10_state R24); `n` and `L` are read (log 7). -/
def State.begin (s : State) (i : Instr) : State :=
  { s.nextDraw.nextSched with
    status := { s.status with done := false }
    engine := .running
      { stage := firstStage i
        work := s.work.start
        n := s.bufLen
        l := s.msgInLen
        disturbed := false
        draw := s.draws
        slots := Config.hostSlots s.cfg.unit s.sched } }

/-- The outputs of a command the host has disturbed (70_reset R185): unspecified. A command's outputs are those its own rule lets it
write: RESULT for a packer command (40_packer, section 2), DST cells `0 .. n-1` for EMBED (41_frame_codec R136), MOUT and MSG_OUT_LEN
for DECODE (R130); log 10. -/
def State.spoilOutputs (s : State) (job : Job) : State :=
  match job.stage with
  | .prim _ => { s with result := freeResult s.cfg.unit job.draw }
  | .scan .embed | .capchk | .write => s.spoil job.draw .dst (Nat.min job.n.toNat s.cfg.bufDepth)
  | .scan .decode | .output =>
    { s.spoil job.draw .mout s.cfg.moutDepth with msgOutLen := freeMsgOutLen s.cfg.unit job.draw }

/-- `finish` of a running command: as its rule says, or, after the host disturbed it, with unspecified outputs and outcome; "the
command still finishes" (70_reset R185). -/
def State.finishJob (s : State) (job : Job) (code : Code) (scan : Option ScanState) (pfx : Bool) : State :=
  if job.disturbed then
    { s.spoilOutputs job with status := Status.free s.cfg.unit job.draw, engine := .idle job.draw }
  else s.finish job.draw code scan pfx

/-- The engine goes on with a command. -/
def State.continueJob (s : State) (job : Job) : State := { s with engine := .running job }

/-- What a packer command computes (40_packer R105 to R108). -/
def State.primResult (s : State) : Prim → Word
  | .bitsof => s.bitsofResult
  | .byteof => s.byteofResult
  | .wrlsb  => s.wrlsbResult
  | .rdlsb  => s.rdlsbResult

/-- Phase PRIM: one function of 40_packer, then `finish` (41_frame_codec R140). -/
def State.primStep (s : State) (job : Job) (op : Prim) : State :=
  { s with result := s.primResult op }.finishJob job .success none false

/-- `pfx[accLen] <- b` for `accLen < 3`; the first three accumulated bytes are kept (41_frame_codec R126). -/
def Pfx.put (p : Pfx) (accLen : Nat) (b : Byte) : Pfx :=
  match accLen with
  | 0 => { p with b0 := b }
  | 1 => { p with b1 := b }
  | 2 => { p with b2 := b }
  | _ => p

/-- `hasPrefix(acc)` from the engine's registers: `pfx` and `accLen` are enough (41_frame_codec R126, R127). -/
def Work.hasMarker (w : Work) (c : Params) : Bool :=
  decide (3 ≤ w.accLen.toNat) && [w.pfx.b0, w.pfx.b1, w.pfx.b2] == c.marker

/-- A length operand exceeds a memory depth (60_exceptions R163). -/
def State.badArg (s : State) (job : Job) (c : Codec) : Bool :=
  match c with
  | .decode => decide (s.cfg.bufDepth < job.n.toNat)
  | .embed => decide (s.cfg.bufDepth < job.n.toNat ∨ s.cfg.minDepth < job.l.toNat)

/-- Leaving phase SCAN with the scanner's terminal state in `w.scan`: EMBED goes to CAPCHK; DECODE classifies and goes to OUTPUT
on success, else finishes (41_frame_codec R129, R140). -/
def State.leaveScan (s : State) (job : Job) (c : Codec) (w : Work) : State :=
  match c with
  | .embed => s.continueJob { job with stage := .capchk, work := w }
  | .decode =>
    match w.scan, w.hasMarker s.cfg with
    | .terminated, true => s.continueJob { job with stage := .output, work := { w with k := 0 } }
    | .exhausted, true =>
      (s.decodeFailed job.draw (capacity job.n.toNat)).finishJob job .malformed (some .exhausted) true
    | st, p => (s.decodeFailed job.draw (capacity job.n.toNat)).finishJob job .noMessage (some st) p

/-- Phase SCAN, one micro-step (41_frame_codec R126). The lengths are checked before any memory access (60_exceptions R168; log
8). -/
def State.scanStep (s : State) (job : Job) (c : Codec) : State :=
  let w := job.work
  if s.badArg job c then s.finishJob job .badArg none false
  else if w.j = 0 ∧ job.n.toNat < 8 * (w.g.toNat + 1) then s.leaveScan job c { w with scan := .exhausted }
  else
    let sh := shiftIn w.sh (readLSB (s.sample (8 * w.g.toNat + w.j.toNat)))
    if w.j = 7 then
      if sh = terminator then s.leaveScan job c { w with j := 0, sh := sh, scan := .terminated }
      else
        s.continueJob { job with
          work := { w with j := 0, sh := 0, pfx := w.pfx.put w.accLen.toNat sh, accLen := w.accLen + 1, g := w.g + 1 } }
    else s.continueJob { job with work := { w with j := w.j + 1, sh := sh } }

/-- Phase CAPCHK of EMBED: the duplicate-frame check and the capacity check (41_frame_codec R132, R133, R140). -/
def State.capchkStep (s : State) (job : Job) : State :=
  let w := job.work
  let p := w.hasMarker s.cfg
  if w.scan = .terminated ∧ p then s.finishJob job .alreadyEncoded (some w.scan) p
  else if capacity job.n.toNat < required job.l.toNat then s.finishJob job .tooLarge (some w.scan) p
  else s.continueJob { job with stage := .write, work := { w with i := 0 } }

/-- Byte `m` of the frame EMBED writes (41_frame_codec R120): MARKER, then the message from MIN, then the terminator. -/
def State.frameByte (s : State) (l m : Nat) : Byte :=
  match m with
  | 0 => s.cfg.m0
  | 1 => s.cfg.m1
  | 2 => s.cfg.m2
  | k + 3 => if k < l then s.msgByte k else terminator

/-- The serialiser's register before it emits frame bit `i`: loaded with frame byte `floor(i/8)` at each group's start
(40_packer R110). -/
def State.serialReg (s : State) (job : Job) (i : Nat) : Byte :=
  if i % 8 = 0 then s.frameByte job.l.toNat (i / 8) else job.work.sh

/-- Phase WRITE of EMBED, one DST cell (41_frame_codec R134, R140); the last one ends the command (log 13). -/
def State.writeStep (s : State) (job : Job) : State :=
  let w := job.work
  let i := w.i.toNat
  let inFrame := i < 8 * required job.l.toNat
  let sh := s.serialReg job i
  let v := if inFrame then writeBitToLSB (s.sample i) (shiftOutBit sh) else s.sample i
  let s' := s.setCell .dst i v
  let w' := { w with i := w.i + 1, sh := if inFrame then shiftOut sh else w.sh }
  if i + 1 < job.n.toNat then s'.continueJob { job with work := w' }
  else s'.finishJob job .success (some w.scan) (w.hasMarker s.cfg)

/-- Phase OUTPUT of DECODE: `MOUT[k] <- groupByte(SRC, 3 + k)`, then `MSG_OUT_LEN <- accLen - 3` and `finish`
(41_frame_codec R140). -/
def State.outputStep (s : State) (job : Job) : State :=
  let w := job.work
  let len := w.accLen.toNat - 3
  if w.k.toNat < len then
    (s.setCell .mout w.k.toNat (groupByte s.sample (3 + w.k.toNat))).continueJob
      { job with work := { w with k := w.k + 1 } }
  else { s with msgOutLen := BitVec.ofNat 32 len }.finishJob job .success (some .terminated) true

/-- One micro-step of the running command, by phase (41_frame_codec R140). -/
def State.engineStep (s : State) (job : Job) : State :=
  match job.stage with
  | .prim op => s.primStep job op
  | .scan c  => s.scanStep job c
  | .capchk  => s.capchkStep job
  | .write   => s.writeStep job
  | .output  => s.outputStep job

/-- After a micro-step: draw how many host accesses come before the next one (log 9). -/
def State.drawSlots (s : State) : State :=
  match s.engine with
  | .idle _ => s
  | .running job =>
    { s.nextSched with engine := .running { job with slots := Config.hostSlots s.cfg.unit s.sched } }

/-- The engine's turn: one micro-step. -/
def State.engineTurn (s : State) (job : Job) : State := (s.engineStep job).drawSlots

end Sys2Proof.Machine
end

