-- ==== Sys2Proof/Machine/HostPort.lean ====
section
/-! DEFINITION. The host's side: register accesses (10_state R21 to R43), byte accesses (20_memory R55, R56), command acceptance
(30_encoding R75), what the host sees and may spoil while BUSY = 1 (70_reset R184 to R186), and reset (70_reset R180). -/

namespace Sys2Proof.Machine

/-- The host registers (10_state R21). -/
inductive Reg where
  | cmd | status | bufLen | msgInLen | msgOutLen | capacity | opa | opb | result | marker
  deriving DecidableEq, Repr

/-- The register at a byte offset; `none` for a reserved or unaligned offset (10_state R21, R38; 20_memory R59). -/
def Reg.at (off : Byte) : Option Reg :=
  match off.toNat with
  | 0x00 => some .cmd
  | 0x04 => some .status
  | 0x08 => some .bufLen
  | 0x0C => some .msgInLen
  | 0x10 => some .msgOutLen
  | 0x14 => some .capacity
  | 0x18 => some .opa
  | 0x1C => some .opb
  | 0x20 => some .result
  | 0x24 => some .marker
  | _ => none

/-- CAPACITY, a view of BUF_LEN: `zext_32(BUF_LEN[31:3])` (10_state R33). -/
def State.capacityReg (s : State) : Word := (s.bufLen.extractLsb' 3 29).setWidth 32

/-- MARKER: byte `k` in bits `8k+7 .. 8k` (10_state R37, 20_memory R58). -/
def State.markerReg (s : State) : Word :=
  s.cfg.m2.setWidth 32 <<< 16 ||| s.cfg.m1.setWidth 32 <<< 8 ||| s.cfg.m0.setWidth 32

/-- The current value of a host register (10_state R22 to R38, R43). -/
def State.readReg (s : State) : Reg → Word
  | .cmd       => 0
  | .status    => s.statusWord
  | .bufLen    => s.bufLen
  | .msgInLen  => s.msgInLen
  | .msgOutLen => s.msgOutLen
  | .capacity  => s.capacityReg
  | .opa       => s.opa
  | .opb       => s.opb
  | .result    => s.result
  | .marker    => s.markerReg

/-- STATUS as a host read sees it while BUSY = 1: BUSY 1, DONE 0, the rest free draws (10_state R24, 70_reset R186). -/
def busyStatus (w : Word) : Word :=
  packStatus true false (w.extractLsb' 4 4) (w.extractLsb' 8 2) (w.getLsbD 10)

/-- What a host read of a register returns while BUSY = 1: outputs are unspecified, the rest as always (70_reset R186). -/
def State.busyReg (s : State) : Reg → Word
  | .status    => busyStatus (freeStatusRead s.cfg.unit s.draws)
  | .msgOutLen => freeMsgOutLenRead s.cfg.unit s.draws
  | .result    => freeResultRead s.cfg.unit s.draws
  | .cmd       => s.readReg .cmd
  | .bufLen    => s.readReg .bufLen
  | .msgInLen  => s.readReg .msgInLen
  | .capacity  => s.readReg .capacity
  | .opa       => s.readReg .opa
  | .opb       => s.readReg .opb
  | .marker    => s.readReg .marker

/-- The word a host read at an offset returns (10_state R38, R43; 70_reset R186). -/
def State.regWord (s : State) (off : Byte) : Word :=
  match Reg.at off with
  | none => 0
  | some r => if s.busy then s.busyReg r else s.readReg r

/-- The byte a host read of a cell returns: 0x00 at or above the depth (20_memory R56); an output memory is unspecified while
BUSY = 1 (70_reset R186; log 11). -/
def State.cellByte (s : State) (sp : Space) (a : Nat) : Byte :=
  if a < s.cfg.depth sp then
    match sp with
    | .src | .min => s.cell sp a
    | .dst | .mout => if s.busy then Config.freeCell s.cfg.unit s.draws sp a else s.cell sp a
  else 0x00

/-- The host receives the value of a read. A busy-time read takes a free draw of its own (log 11). -/
def State.deliver (s : State) (r : Reading) : State :=
  { s with outbox := s.outbox ++ [r], draws := if s.busy then s.draws + 1 else s.draws }

/-- Host read of a register (10_state R43): no side effect on any register. -/
def State.hostRead (s : State) (off : Byte) : State := s.deliver (.word (s.regWord off))

/-- Host read of a memory cell (20_memory R55, R56). -/
def State.hostReadByte (s : State) (sp : Space) (a : Nat) : State := s.deliver (.byte (s.cellByte sp a))

/-- The host wrote an input of the running command (70_reset R185). -/
def State.disturb (s : State) : State :=
  match s.engine with
  | .idle _ => s
  | .running job => { s with engine := .running { job with disturbed := true } }

/-- Host write of a memory cell: SRC and MIN only; out of range and DST, MOUT ignored (20_memory R55, R56). -/
def State.hostWriteByte (s : State) (sp : Space) (a : Nat) (v : Byte) : State :=
  match sp with
  | .src | .min => if a < s.cfg.depth sp then (s.setCell sp a v).disturb else s
  | .dst | .mout => s

/-- Acceptance of a word written to CMD while BUSY = 0 (10_state R22, 30_encoding R75): an illegal word finishes at once with
ILLEGAL (60_exceptions R167), a command is performed in the form the state says (41_frame_codec R140). -/
def State.accept (s : State) (w : Word) : Host.Outcome State Fault Refusal :=
  match decode w with
  | .error _ => .next (s.nextDraw.finish s.draws .illegal none false)
  | .ok i =>
    match s.form with
    | .atomic => exec i s
    | .stepped => .next (s.begin i)

/-- Host write of a register (10_state R43): stored whole in a read/write register, a command issue for CMD (ignored while
BUSY = 1, R22), ignored for a read-only register or a reserved offset. -/
def State.hostWrite (s : State) (off : Byte) (v : Word) : Host.Outcome State Fault Refusal :=
  match Reg.at off with
  | some .cmd      => if s.busy then .next s else s.accept v
  | some .bufLen   => .next { s with bufLen := v }.disturb
  | some .msgInLen => .next { s with msgInLen := v }.disturb
  | some .opa      => .next { s with opa := v }.disturb
  | some .opb      => .next { s with opb := v }.disturb
  | some .status | some .msgOutLen | some .capacity | some .result | some .marker | none => .next s

/-- The value of a reading as a register word. -/
def Reading.toWord : Reading → Word
  | .word v => v
  | .byte v => zext32 v

/-- The host variable `t` of the host's last read (30_encoding R76, R77; log 19). -/
def State.hostVar (s : State) : Word :=
  match s.outbox.getLast? with
  | some r => r.toWord
  | none => freeHostVar s.cfg.unit s.draws

/-- Reset (70_reset R180 to R182): every register and the engine to their reset values, every memory cell a new free draw; a
running command is abandoned. The configuration, the pending accesses, what the host has read and the form are not the block's
to reset. -/
def State.resetEvent (s : State) : State :=
  { State.reset with
    cfg := s.cfg
    engine := .idle s.draws
    epoch := s.draws
    draws := s.draws + 1
    sched := s.sched
    form := s.form
    inbox := s.inbox
    outbox := s.outbox }

/-- One input takes effect; `s` no longer has it pending. `poll` stays pending while BUSY = 1 (30_encoding R77). -/
def State.perform (s : State) (e : Event) : Host.Outcome State Fault Refusal :=
  match e with
  | .wr off v      => s.hostWrite off v
  | .rd off        => .next (s.hostRead off)
  | .wrb sp a v    => .next (s.hostWriteByte sp a v)
  | .rdb sp a      => .next (s.hostReadByte sp a)
  | .poll          => .next (if s.busy then (s.hostRead 0x04).setInbox (.poll :: s.inbox) else s.hostRead 0x04)
  | .wrLast off    => s.hostWrite off s.hostVar
  | .wrbLast sp a  => .next (s.hostWriteByte sp a (s.hostVar.setWidth 8))
  | .reset         => .next s.resetEvent

/-- The input takes one of the slots before the engine's next micro-step (log 9). -/
def State.useSlot (s : State) : State :=
  match s.engine with
  | .idle _ => s
  | .running job => { s with engine := .running { job with slots := job.slots - 1 } }

/-- The outside world's turn: the oldest pending input takes effect; with none pending nothing changes (60_exceptions R176). -/
def State.hostTurn (s : State) : Host.Outcome State Fault Refusal :=
  match s.inbox with
  | [] => .next s
  | e :: rest => (s.useSlot.setInbox rest).perform e

/-- Whether the engine moves next: it is running, and no input is pending or no slot is left (log 9). -/
def State.engineMoves (s : State) : Option Job :=
  match s.engine with
  | .idle _ => none
  | .running job => if s.inbox = [] ∨ job.slots = 0 then some job else none

/-- One step of the block and its surroundings: a micro-step of the engine, or one input. -/
def State.move (s : State) : Host.Outcome State Fault Refusal :=
  match s.engineMoves with
  | some job => .next (s.engineTurn job)
  | none => s.hostTurn

/-- The engine back in IDLE. -/
def Engine.stopped (e : Engine) : Engine := .idle e.draw

/-- `s` with a CMD write of `w` as the next input, the engine idle and the atomic form (log 16). -/
def State.withCommand (s : State) (w : Word) : State :=
  { s with engine := s.engine.stopped, form := .atomic, inbox := .wr 0x00 w :: s.inbox }

end Sys2Proof.Machine
end

