-- ==== Sys2Proof/Machine/Step.lean ====
section
/-! DEFINITION. The step of the machine. A command is "fetched" where the host's next access writes it to CMD (10_state R22). -/

namespace Sys2Proof.Machine

/-- One step: three outcomes, of which only `next` occurs (log 18). -/
def step (s : State) : Host.Outcome State Fault Refusal := s.move

/-- `s` with the instruction of `nbits` bits `w` where `step` takes its next one: a CMD write as the next input (log 16). -/
def State.withFetchWord (s : State) (nbits w : Nat) : State := s.withCommand (BitVec.ofNat 32 (tableWord nbits w))

end Sys2Proof.Machine
end

