-- ==== Sys2Proof/Machine/HostProgram.lean ====
section
/-! DEFINITION. The host's program forms of 30_encoding R77 as sequences of inputs; `poll` is an input of its own (`Event.poll`). -/

namespace Sys2Proof.Machine

/-- `run MNEMONIC`: `wr CMD, opcode(MNEMONIC)` then `poll` (30_encoding R77). -/
def hostRun (i : Instr) : List Event := [.wr 0x00 (encode i), .poll]

/-- `fill SPACE, [b0, b1, ...]` from cell `k` on (30_encoding R77; a program starts it at 0). -/
def hostFillFrom (sp : Space) : Nat → List Byte → List Event
  | _, [] => []
  | k, b :: bs => .wrb sp k b :: hostFillFrom sp (k + 1) bs

/-- `fill SPACE, [b0, b1, ...]` (30_encoding R77). -/
def hostFill (sp : Space) (bs : List Byte) : List Event := hostFillFrom sp 0 bs

/-- `zero SRC, n` (30_encoding R77). -/
def hostZero (n : Nat) : List Event := (List.range n).map (fun i => .wrb .src i 0x00)

/-- `copy DST, SRC, n` (30_encoding R77): for each `i`, read DST[i], then write the byte read to SRC[i]. -/
def hostCopy (n : Nat) : List Event := (List.range n).flatMap (fun i => [.rdb .dst i, .wrbLast .src i])

end Sys2Proof.Machine
end

