-- ==== Sys2Proof/Machine/System.lean ====
section
/-! DEFINITION. Several instances (60_exceptions R172): each block has its own registers, memories, engine and inputs; nothing is
shared. Which block moves next is data, so every interleaving is admitted, the race of 70_reset R187 among them (log 17). -/

namespace Sys2Proof.Machine

/-- The instances, by position (no register shows it, R172), and whose turns come next. -/
structure System where
  blocks : List State
  turns  : List Nat
  deriving DecidableEq, Repr

/-- One turn: the block whose turn it is makes one step of its own. -/
def System.step (y : System) : Host.Outcome System Fault Refusal :=
  match y.turns with
  | [] => .next y
  | k :: turns =>
    match y.blocks[k]? with
    | none => .next { y with turns := turns }
    | some s =>
      match Sys2Proof.Machine.step s with
      | .next s' => .next { blocks := y.blocks.set k s', turns := turns }
      | .fault r => .fault r
      | .refused r => .refused r

/-- The state after reset of instance `k`: as `State.reset`, with free values of its own (R172: each comes out of reset idle). Whether
instances may differ in their depths the spec leaves open (R9 "for one instance", R172 "copies"); the model lets them: each has OPEN
depths of its own, DESIGN CHOICE (log 17). -/
def resetOf (k : Nat) : State := { State.reset with cfg := Config.params k }

/-- NUM_INSTANCES blocks out of reset, with a given order of turns (60_exceptions R172). -/
def System.reset (turns : List Nat) : System :=
  { blocks := (List.range Config.numInstances).map resetOf, turns := turns }

end Sys2Proof.Machine
end

