-- ==== Sys2Proof/Safety.lean ====
section
/-! DEFINITION. What counts as a good state and a well-behaved host, and the words the statements about the machine use: frames,
what the host can see, runs. -/

namespace Sys2Proof.Machine

/-! ## Frames -/

/-- Every byte of a memory reads as before. -/
def SameCells (sp : Space) (s t : State) : Prop := ∀ a, t.cell sp a = s.cell sp a

/-- The four registers only the host writes (10_state R30, R31, R34, R35) are unchanged. -/
def SameHostRegs (s t : State) : Prop :=
  t.bufLen = s.bufLen ∧ t.msgInLen = s.msgInLen ∧ t.opa = s.opa ∧ t.opb = s.opb

/-- The configuration and the model's own fields other than the free-draw counter are unchanged. -/
def SameRest (s t : State) : Prop :=
  t.cfg = s.cfg ∧ t.epoch = s.epoch ∧ t.sched = s.sched ∧ t.form = s.form ∧ t.inbox = s.inbox ∧ t.outbox = s.outbox

/-- Everything a packer command must leave alone: all but RESULT and STATUS (40_packer, section 2). -/
def PackerFrame (s t : State) : Prop :=
  SameHostRegs s t ∧ t.msgOutLen = s.msgOutLen ∧ (∀ sp, SameCells sp s t) ∧ SameRest s t

/-- Everything a command that only reports must leave alone: all but STATUS (60_exceptions R161 to R163, R167). -/
def OnlyStatus (s t : State) : Prop := PackerFrame s t ∧ t.result = s.result

/-- Everything EMBED must leave alone: all but DST and STATUS (41_frame_codec R136). -/
def EmbedFrame (s t : State) : Prop :=
  SameHostRegs s t ∧ t.msgOutLen = s.msgOutLen ∧ t.result = s.result ∧ SameCells .src s t ∧ SameCells .min s t
    ∧ SameCells .mout s t ∧ SameRest s t

/-- Everything DECODE must leave alone: all but MOUT, MSG_OUT_LEN and STATUS (41_frame_codec R130). -/
def DecodeFrame (s t : State) : Prop :=
  SameHostRegs s t ∧ t.result = s.result ∧ SameCells .src s t ∧ SameCells .dst s t ∧ SameCells .min s t ∧ SameRest s t

/-- The command has ended: the engine is idle and STATUS reads this word (10_state R27). -/
def EndsWith (t : State) (w : Word) : Prop := t.busy = false ∧ t.statusWord = w

/-- "Raised by" of 60_exceptions R161 to R165: a command that ends with this code is one of these. -/
def RaisedOnlyBy (err : BitVec 4) (by' : List Instr) : Prop :=
  ∀ (i : Instr) (s t : State), exec i s = .next t → t.status.err = err → i ∈ by'

/-! ## The lengths -/

/-- The lengths of a DECODE have passed their check (60_exceptions R163). -/
def State.decodeArgsOk (s : State) : Prop := s.bufLen.toNat ≤ s.cfg.bufDepth

/-- The lengths of an EMBED have passed their check (60_exceptions R163). -/
def State.embedArgsOk (s : State) : Prop := s.bufLen.toNat ≤ s.cfg.bufDepth ∧ s.msgInLen.toNat ≤ s.cfg.minDepth

/-- SRC holds a frame: its decode is SUCCESS (41_frame_codec R127, R132). -/
def State.holdsFrame (s : State) : Prop := ∃ msg, decodeResult s.cfg s.sample s.n = .success msg

/-- The first three groups of SRC carry MARKER (41_frame_codec R127). -/
def State.markerInSrc (s : State) : Prop :=
  groupByte s.sample 0 = s.cfg.m0 ∧ groupByte s.sample 1 = s.cfg.m1 ∧ groupByte s.sample 2 = s.cfg.m2

/-! ## Good states -/

/-- Each memory has the canonical form and lists only cells the space has (20_memory R50). -/
def State.memoriesOk (s : State) : Prop := ∀ sp, (s.mem sp).wf ∧ ∀ p ∈ s.mem sp, p.1 < s.cfg.depth sp

/-- What holds of a running command's registers, phase by phase: the scan stays within the buffer, the lengths have passed their
check, and no index reaches a depth (41_frame_codec R126, R139; 20_memory R61). -/
def Job.ok (c : Params) (job : Job) : Prop :=
  match job.stage with
  | .prim _ => True
  | .scan _ =>
    job.work.scan = .scanning ∧ job.work.accLen = job.work.g ∧ 8 * job.work.g.toNat ≤ job.n.toNat
      ∧ (job.work.j ≠ 0 → 8 * (job.work.g.toNat + 1) ≤ job.n.toNat)
  | .capchk =>
    job.n.toNat ≤ c.bufDepth ∧ job.l.toNat ≤ c.minDepth ∧ job.work.scan ≠ .scanning
      ∧ job.work.accLen.toNat ≤ capacity job.n.toNat
  | .write =>
    job.n.toNat ≤ c.bufDepth ∧ job.l.toNat ≤ c.minDepth ∧ job.work.scan ≠ .scanning
      ∧ required job.l.toNat ≤ capacity job.n.toNat ∧ job.work.i.toNat < job.n.toNat
  | .output =>
    job.n.toNat ≤ c.bufDepth ∧ job.work.scan = .terminated ∧ 3 ≤ job.work.accLen.toNat
      ∧ job.work.accLen.toNat + 1 ≤ capacity job.n.toNat ∧ job.work.k.toNat ≤ job.work.accLen.toNat - 3

/-- A state in which no command has finished since reset holds what reset left in every output (10_state R25, R42). -/
def State.untouched (s : State) : Prop :=
  s.status = State.reset.status ∧ s.msgOutLen = 0 ∧ s.result = 0 ∧ s.dst = [] ∧ s.mout = []

/-- The engine's part of the invariant: a running command has DONE = 0 (10_state R25) and good registers; an idle engine with
DONE = 0 has finished no command since reset. -/
def State.engineOk (s : State) : Prop :=
  match s.engine with
  | .idle _ => s.status.done = false → s.untouched
  | .running job => s.status.done = false ∧ job.ok s.cfg

/-- The invariant of the machine. The last part says that free draws already taken are not taken again (log 5). -/
def State.Inv (s : State) : Prop :=
  s.cfg.wellFormed = true ∧ s.memoriesOk ∧ s.engineOk ∧ s.epoch < s.draws ∧ s.engine.draw < s.draws

/-! ## A well-behaved host -/

/-- The registers a running command may read (70_reset R185). -/
def isInputReg (off : Byte) : Bool :=
  match Reg.at off with
  | some .bufLen | some .msgInLen | some .opa | some .opb => true
  | _ => false

/-- A write to a cell that a running command may read (70_reset R185). -/
def isInputCell (c : Params) (sp : Space) (a : Nat) : Bool :=
  match sp with
  | .src | .min => decide (a < c.depth sp)
  | .dst | .mout => false

/-- An input that neither resets the block nor writes an input of a running command (70_reset R185). -/
def Event.quiet (c : Params) : Event → Bool
  | .wr off _ | .wrLast off => !isInputReg off
  | .wrb sp a _ | .wrbLast sp a => !isInputCell c sp a
  | .rd _ | .rdb _ _ | .poll => true
  | .reset => false

/-! ## Runs -/

/-- `k` steps of the machine from `s` lead to `t`. -/
def Reaches (k : Nat) (s t : State) : Prop := Host.Core.run Sys2Proof.core k s = .next t

/-- `t` is `e` but for the model's counters of draws and the host's queues. -/
def SameButTraffic (e t : State) : Prop :=
  t = { e with draws := t.draws, sched := t.sched, inbox := t.inbox, outbox := t.outbox }

/-- A bound on the engine's micro-steps from acceptance to `finish` (70_reset R191): scan steps, then one CAPCHK step and write
steps for EMBED, or output steps for DECODE; one step for a packer command. -/
def stepBound (i : Instr) (n : Nat) : Nat :=
  match i with
  | .bitsof | .byteof | .wrlsb | .rdlsb => 1
  | .embed => 8 * capacity n + 1 + 1 + n
  | .decode => 8 * capacity n + 1 + capacity n

end Sys2Proof.Machine
end

