-- ==== Sys2Proof/Certificates/Slice0/Obligations.lean ====
section
/-! DEFINITION. The statements about the LSB Steg Codec, from the numbered rules of spec/. Every statement holds for every value of
the free draws (`Config.freeCell`, `Config.freeWord`, `Config.hostSlots`) and of the parameters `State.cfg`. -/

open Sys2Proof Sys2Proof.Machine

/-! ## Reset -/

/-- V-R1, R42: after reset every register reads 0 but MARKER, which reads 0x00677473, and nothing runs. The last clause, that no memory
lists a cell, is the model's own representation of unspecified cells (log 4), no rule's. -/
def Obligations.ResetRegistersRead : Prop :=
  (∀ off : Byte, State.reset.regWord off = if off = 0x24 then 0x00677473 else 0)
    ∧ State.reset.busy = false ∧ ∀ sp, State.reset.mem sp = []

/-- R42, R181, R182: a reset at any time, a command running or not, sets every register to R42's value, leaves every cell of every
memory at a new free draw, and the engine idle with unspecified registers. The input stands in `inbox` and lands between two steps
(logs 3, 20); how the free draws are numbered is the model's (logs 4, 5, 6). -/
def Obligations.ResetEventSetsEverything : Prop :=
  ∀ (s : State) (rest : List Event), s.inbox = .reset :: rest → s.engineMoves = none →
    ∃ t, step s = .next t
      ∧ t.busy = false ∧ t.statusWord = 0 ∧ t.bufLen = 0 ∧ t.msgInLen = 0 ∧ t.msgOutLen = 0 ∧ t.opa = 0 ∧ t.opb = 0
      ∧ t.result = 0
      ∧ (∀ off : Byte, t.regWord off = if off = 0x24 then s.markerReg else 0)
      ∧ (s.cfg.marker = [0x73, 0x74, 0x67] → t.regWord 0x24 = 0x00677473)
      ∧ (∀ sp a, t.cell sp a = Config.freeCell s.cfg.unit s.draws sp a)
      ∧ t.work = Work.free s.cfg.unit s.draws
      ∧ t.cfg = s.cfg ∧ t.inbox = rest ∧ t.outbox = s.outbox

/-! ## Encoding and acceptance -/

/-- R71: six words written out from the encoding decode to their commands; some illegal words of V-C1 do not. -/
def Obligations.SpecWordsDecode : Prop :=
  decode 0x00000001 = .ok .bitsof ∧ decode 0x00000002 = .ok .byteof ∧ decode 0x00000003 = .ok .wrlsb
    ∧ decode 0x00000004 = .ok .rdlsb ∧ decode 0x00000008 = .ok .embed ∧ decode 0x00000009 = .ok .decode
    ∧ decode 0x00000018 = .error .reservedBits ∧ decode 0x80000008 = .error .reservedBits
    ∧ decode 0x00000000 = .error .undefinedOpcode ∧ decode 0x0000000A = .error .undefinedOpcode

/-- R71, R75: over all 2^32 words, the decoder reads an instruction exactly from that instruction's own word, and an instruction
decodes back from its encoding. -/
def Obligations.DecodeExactlyEncodedWords : Prop :=
  ∀ (w : Word) (i : Instr), i.wellFormed = true → (decode w = .ok i ↔ w = encode i)

/-- R73, R74, R167: a word with RSVD not zero or an undefined OPCODE, written to CMD while BUSY = 0, finishes at once with ILLEGAL,
SCAN NONE, PREFIX 0, in either form of the engine, and nothing but STATUS changes (the write stands in `inbox`, log 3). -/
def Obligations.IllegalWordFinishesAtOnce : Prop :=
  ∀ (s : State) (w : Word) (rest : List Event), s.busy = false → s.inbox = .wr 0x00 w :: rest →
    (w.toNat / 16 ≠ 0 ∨ w.toNat % 16 ∈ [0x0, 0x5, 0x6, 0x7, 0xA, 0xB, 0xC, 0xD, 0xE, 0xF]) →
    ∃ t, step s = .next t ∧ EndsWith t 0x000000F2 ∧ OnlyStatus (s.setInbox rest) t

/-- The bridge from the statements about `exec` to runs: in the atomic form, with a command's word as the next write to CMD and
BUSY = 0, a step is that command's `exec`, the write being consumed. The form and the queue of writes are the model's choice (logs
2, 3). -/
def Obligations.StepRunsAcceptedCommand : Prop :=
  ∀ (s : State) (w : Word) (i : Instr) (rest : List Event), s.busy = false → s.form = .atomic →
    s.inbox = .wr 0x00 w :: rest → decode w = .ok i → step s = exec i (s.setInbox rest)

/-- `withFetchWord` puts a row's word where the next step takes it: after it, from any state, the step is `exec`
(the model's choice, logs 15, 16). -/
def Obligations.FetchWordRunsNext : Prop :=
  ∀ (s : State) (w : Nat) (i : Instr), decodeTableWord 32 w = some i →
    step (s.withFetchWord 32 w) = exec i { s with engine := .idle s.engine.draw, form := .atomic }

/-- R24: in the stepped form acceptance sets BUSY 1 and DONE 0 and starts the command's first phase; no register, memory or
configuration changes, and a STATUS read shows BUSY 1 and DONE 0. That the lengths are read here is an inference (log 7), that
a state says which form it runs is the model's choice (log 2). -/
def Obligations.AcceptanceSetsBusy : Prop :=
  ∀ (s : State) (w : Word) (i : Instr) (rest : List Event), s.busy = false → s.form = .stepped →
    s.inbox = .wr 0x00 w :: rest → decode w = .ok i →
    ∃ t job, step s = .next t ∧ t.engine = .running job ∧ t.busy = true ∧ t.status.done = false
      ∧ job.stage = firstStage i ∧ job.n = s.bufLen ∧ job.l = s.msgInLen ∧ job.disturbed = false
      ∧ (t.regWord 0x04).getLsbD 0 = true ∧ (t.regWord 0x04).getLsbD 1 = false
      ∧ SameHostRegs s t ∧ t.msgOutLen = s.msgOutLen ∧ t.result = s.result ∧ (∀ sp, SameCells sp s t) ∧ t.cfg = s.cfg
      ∧ t.inbox = rest

/-- R22, R184: a CMD write while BUSY = 1 changes no state and is not queued. Only the access itself is consumed, and one
of the slots that the interleaving leaves the host: the queue and the slots are the model's choice (logs 3, 9). The same for a write
whose word is the value of the host's last read (log 19). -/
def Obligations.CommandWhileBusyIgnored : Prop :=
  ∀ (s : State) (job : Job) (w : Word) (rest : List Event), s.engine = .running job → job.slots ≠ 0 →
    s.inbox = .wr 0x00 w :: rest ∨ s.inbox = .wrLast 0x00 :: rest →
    step s = .next { s with inbox := rest, engine := .running { job with slots := job.slots - 1 } }

/-- R23: the layout of STATUS, bit by bit; reserved bits read 0. -/
def Obligations.StatusWordLayout : Prop :=
  ∀ s : State, ∀ k < 32, s.statusWord.getLsbD k =
    if k = 0 then s.busy else if k = 1 then s.status.done
    else if 4 ≤ k ∧ k < 8 then s.status.err.getLsbD (k - 4)
    else if 8 ≤ k ∧ k < 10 then s.status.scan.getLsbD (k - 8)
    else if k = 10 then s.status.pfx else false

/-! ## Packer primitives -/

/-- R100: `bitsOf` is total, MSB first, byte outer and bit inner. -/
def Obligations.BitsOfMsbFirst : Prop :=
  bitsOf [] = [] ∧ ∀ bs : List Byte, (bitsOf bs).length = 8 * bs.length
    ∧ ∀ (m q : Nat) (b : Byte), q < 8 → bs[m]? = some b → (bitsOf bs)[8 * m + q]? = some (b.getLsbD (7 - q))

/-- R101: `byteOf` of 8 bits is their number, first bit most significant; any other length is refused. -/
def Obligations.ByteOfEightBitsOnly : Prop :=
  (∀ s0 s1 s2 s3 s4 s5 s6 s7 : Bool, ∃ b, byteOf [s0, s1, s2, s3, s4, s5, s6, s7] = some b
      ∧ b.toNat = 128 * s0.toNat + 64 * s1.toNat + 32 * s2.toNat + 16 * s3.toNat + 8 * s4.toNat + 4 * s5.toNat
        + 2 * s6.toNat + s7.toNat)
    ∧ ∀ l : List Bool, l.length ≠ 8 → byteOf l = none

/-- R109: the laws of the primitives; the last is about the commands BITSOF and BYTEOF. -/
def Obligations.PrimitiveLaws : Prop :=
  (∀ b : Byte, byteOf (bitsOf [b]) = some b)
    ∧ (∀ t : List Bool, t.length = 8 → ∃ b, byteOf t = some b ∧ bitsOf [b] = t)
    ∧ (∀ p q : List Byte, bitsOf (p ++ q) = bitsOf p ++ bitsOf q)
    ∧ (∀ (s : Byte) (x : Bool), readLSB (writeBitToLSB s x) = x)
    ∧ (∀ (s : Byte) (x : Bool), writeBitToLSB s x &&& 0xFE = s &&& 0xFE)
    ∧ (∀ s : Byte, writeBitToLSB s (readLSB s) = s)
    ∧ (∀ s : State, ∃ t u, exec .bitsof s = .next t ∧ exec .byteof { t with opa := t.result } = .next u
        ∧ u.result = (s.opa.extractLsb' 0 8).setWidth 32)

/-- R110: the serial forms compute exactly `bitsOf` and `byteOf`. -/
def Obligations.SerialFormsAgree : Prop :=
  (∀ b : Byte, serialBits 8 b = bitsOf [b]) ∧ ∀ t : List Bool, t.length = 8 → byteOf t = some (serialByte 0 t)

/-! ## Packer commands -/

/-- R105: BITSOF always succeeds; RESULT is the bit reversal of OPA[7:0], zero-extended; nothing but RESULT and STATUS changes. -/
def Obligations.BitsofReversesByte : Prop :=
  decode 0x00000001 = .ok .bitsof ∧ ∀ s : State, ∃ t, exec .bitsof s = .next t
    ∧ (∀ k, k < 8 → t.result.getLsbD k = s.opa.getLsbD (7 - k)) ∧ (∀ k, 8 ≤ k → t.result.getLsbD k = false)
    ∧ EndsWith t 0x00000002 ∧ PackerFrame s t

/-- R106: BYTEOF always succeeds; element k of the sequence, OPA bit k, becomes bit 7-k of RESULT; nothing else changes. -/
def Obligations.ByteofReadsSequence : Prop :=
  decode 0x00000002 = .ok .byteof ∧ ∀ s : State, ∃ t, exec .byteof s = .next t
    ∧ (∀ k, k < 8 → t.result.getLsbD (7 - k) = s.opa.getLsbD k) ∧ (∀ k, 8 ≤ k → t.result.getLsbD k = false)
    ∧ EndsWith t 0x00000002 ∧ PackerFrame s t

/-- R107: WRLSB always succeeds; RESULT bit 0 is OPB[0], bits 7:1 are OPA's, the rest 0; nothing else changes. -/
def Obligations.WrlsbSetsLowBit : Prop :=
  decode 0x00000003 = .ok .wrlsb ∧ ∀ s : State, ∃ t, exec .wrlsb s = .next t
    ∧ t.result.getLsbD 0 = s.opb.getLsbD 0 ∧ (∀ k, 1 ≤ k → k < 8 → t.result.getLsbD k = s.opa.getLsbD k)
    ∧ (∀ k, 8 ≤ k → t.result.getLsbD k = false)
    ∧ EndsWith t 0x00000002 ∧ PackerFrame s t

/-- R108: RDLSB always succeeds; RESULT is 1 if OPA[0] is set, else 0; nothing else changes. -/
def Obligations.RdlsbReadsLowBit : Prop :=
  decode 0x00000004 = .ok .rdlsb ∧ ∀ s : State, ∃ t, exec .rdlsb s = .next t
    ∧ t.result = (if s.opa.toNat % 2 = 1 then 0x00000001 else 0x00000000)
    ∧ EndsWith t 0x00000002 ∧ PackerFrame s t

/-! ## Frame, scanner, classifier -/

/-- R120, R121: a frame has 3 + L + 1 bytes and 8 bits for each; frame bit i is bit 7 - (i mod 8) of frame byte floor(i/8), and a
successful EMBED carries it in the LSB of sample i. -/
def Obligations.FrameBitPlacement : Prop :=
  (∀ (c : Params) (m : List Byte), frame c m = c.marker ++ m ++ [0x00] ∧ (frame c m).length = 3 + m.length + 1)
    ∧ (∀ (c : Params) (m : List Byte) (i : Nat) (b : Byte), (frame c m)[i / 8]? = some b →
        (bitsOf (frame c m))[i]? = some (b.getLsbD (7 - i % 8)))
    ∧ ∀ (s t : State), exec .embed s = .next t → t.status.err = 0 → ∀ (i : Nat) (b : Byte),
        (frame s.cfg (s.message s.l))[i / 8]? = some b → (t.cell .dst i).getLsbD 0 = b.getLsbD (7 - i % 8)

/-- R124: bit 7 - q of a group's byte is the LSB of its sample q. -/
def Obligations.GroupByteBits : Prop :=
  ∀ (buf : Nat → Byte) (g q : Nat), q < 8 → (groupByte buf g).getLsbD (7 - q) = (buf (8 * g + q)).getLsbD 0

/-- R125: the scan ends TERMINATED at the first zero group or EXHAUSTED when fewer than 8 samples remain; it accumulates the groups
before, never a zero byte, and reads no sample of a trailing partial group. -/
def Obligations.ScanStopsAtFirstNul : Prop :=
  ∀ (buf : Nat → Byte) (n : Nat), ∃ len, len ≤ n / 8
    ∧ (scan buf n).2 = (List.range len).map (groupByte buf)
    ∧ (∀ b ∈ (scan buf n).2, b ≠ 0x00)
    ∧ (((scan buf n).1 = .terminated ∧ len + 1 ≤ n / 8 ∧ groupByte buf len = 0x00)
        ∨ ((scan buf n).1 = .exhausted ∧ n < 8 * (len + 1)))
    ∧ ∀ buf' : Nat → Byte, (∀ i, i < 8 * (n / 8) → buf' i = buf i) → scan buf' n = scan buf n

/-- R127, R128: the marker test is an exact match of bytes 0, 1, 2; the four outcomes of a scan. -/
def Obligations.ClassifierFourCases : Prop :=
  ∀ (c : Params) (acc : List Byte),
    (hasMarker c acc = true ↔ ∃ msg, acc = c.m0 :: c.m1 :: c.m2 :: msg)
    ∧ (hasMarker c acc = false → classify c .exhausted acc = .noMessage ∧ classify c .terminated acc = .noMessage)
    ∧ (hasMarker c acc = true → classify c .exhausted acc = .malformed)
    ∧ ∀ msg, acc = c.m0 :: c.m1 :: c.m2 :: msg → classify c .terminated acc = .success msg

/-! ## DECODE -/

/-- R129: the success path. The groups before the first zero group begin with MARKER: the rest is the message, in MOUT from cell 0,
its length in MSG_OUT_LEN, STATUS 0x602; it fits MOUT (R10, R130); nothing else changes. -/
def Obligations.DecodeRecoversMessage : Prop :=
  ∀ (s : State) (len : Nat), s.decodeArgsOk → 3 ≤ len → len < s.bufLen.toNat / 8 → s.markerInSrc →
    groupByte s.sample len = 0x00 → (∀ k, k < len → groupByte s.sample k ≠ 0x00) →
    ∃ t, exec .decode s = .next t ∧ EndsWith t 0x00000602 ∧ t.msgOutLen.toNat = len - 3
      ∧ (∀ k, k < len - 3 → t.cell .mout k = groupByte s.sample (3 + k))
      ∧ (∀ k, len - 3 ≤ k → t.cell .mout k = s.cell .mout k)
      ∧ (s.cfg.wellFormed = true → len - 3 ≤ s.cfg.moutDepth)
      ∧ DecodeFrame s t

/-- R164: NO_MESSAGE from both terminal states: a zero group after groups that do not begin with MARKER (STATUS 0x232), or no zero
group at all and no MARKER (STATUS 0x332). MSG_OUT_LEN is 0; MOUT at and above capacity(n) is unchanged. Only DECODE raises it. -/
def Obligations.DecodeNoMessage : Prop :=
  RaisedOnlyBy 0x3 [.decode] ∧ ∀ (s : State) (len : Nat), s.decodeArgsOk → len ≤ s.bufLen.toNat / 8 → (∀ k, k < len → groupByte s.sample k ≠ 0x00) →
    (len < 3 ∨ ¬ s.markerInSrc) →
    (len < s.bufLen.toNat / 8 → groupByte s.sample len = 0x00 →
      ∃ t, exec .decode s = .next t ∧ EndsWith t 0x00000232 ∧ t.msgOutLen = 0
        ∧ (∀ k, s.bufLen.toNat / 8 ≤ k → t.cell .mout k = s.cell .mout k) ∧ DecodeFrame s t)
    ∧ (len = s.bufLen.toNat / 8 →
      ∃ t, exec .decode s = .next t ∧ EndsWith t 0x00000332 ∧ t.msgOutLen = 0
        ∧ (∀ k, s.bufLen.toNat / 8 ≤ k → t.cell .mout k = s.cell .mout k) ∧ DecodeFrame s t)

/-- R165: MARKER in the first three groups and no zero group: MALFORMED, STATUS 0x742, MSG_OUT_LEN 0. Only DECODE raises
it. -/
def Obligations.DecodeMalformed : Prop :=
  RaisedOnlyBy 0x4 [.decode] ∧ ∀ s : State, s.decodeArgsOk → 3 ≤ s.bufLen.toNat / 8 → s.markerInSrc →
    (∀ k, k < s.bufLen.toNat / 8 → groupByte s.sample k ≠ 0x00) →
    ∃ t, exec .decode s = .next t ∧ EndsWith t 0x00000742 ∧ t.msgOutLen = 0
      ∧ (∀ k, s.bufLen.toNat / 8 ≤ k → t.cell .mout k = s.cell .mout k) ∧ DecodeFrame s t

/-- R130: what DECODE's outputs hold after each outcome, and what DECODE never writes. -/
def Obligations.DecodeOutputs : Prop :=
  ∀ s : State, ∃ t, exec .decode s = .next t ∧ DecodeFrame s t
    ∧ (¬ s.decodeArgsOk → t.msgOutLen = s.msgOutLen ∧ SameCells .mout s t)
    ∧ (s.decodeArgsOk → ∀ msg, decodeResult s.cfg s.sample s.n = .success msg →
        t.msgOutLen.toNat = msg.length ∧ msg.length + 4 ≤ capacity s.n
        ∧ (∀ (k : Nat) (b : Byte), msg[k]? = some b → t.cell .mout k = b)
        ∧ (∀ k, msg.length ≤ k → t.cell .mout k = s.cell .mout k)
        ∧ (s.cfg.wellFormed = true → msg.length ≤ s.cfg.moutDepth))
    ∧ (s.decodeArgsOk → ¬ s.holdsFrame →
        t.msgOutLen = 0 ∧ ∀ k, capacity s.n ≤ k ∨ s.cfg.moutDepth ≤ k → t.cell .mout k = s.cell .mout k)

/-- R163: BAD_ARG for DECODE and EMBED: STATUS 0x0E2 and nothing else changes, in particular MSG_OUT_LEN.
Only these two raise it. -/
def Obligations.BadArgTouchesNothing : Prop :=
  RaisedOnlyBy 0xE [.decode, .embed] ∧ ∀ s : State,
    (s.cfg.bufDepth < s.bufLen.toNat → ∃ t, exec .decode s = .next t ∧ EndsWith t 0x000000E2 ∧ OnlyStatus s t)
    ∧ (s.cfg.bufDepth < s.bufLen.toNat ∨ s.cfg.minDepth < s.msgInLen.toNat →
        ∃ t, exec .embed s = .next t ∧ EndsWith t 0x000000E2 ∧ OnlyStatus s t)

/-! ## EMBED -/

/-- R134, R131: the DST an EMBED writes: below 8 * required(L) the sample with its LSB replaced by the frame bit, beyond it a copy,
nothing at and above n; SCAN and PREFIX are those of the duplicate-frame scan; only DST and STATUS change. -/
def Obligations.EmbedWritesFrame : Prop :=
  ∀ s : State, s.embedArgsOk → ¬ s.holdsFrame → s.msgInLen.toNat + 4 ≤ s.bufLen.toNat / 8 →
    ∃ t, exec .embed s = .next t
      ∧ EndsWith t (packStatus false true 0x0 (scanBits (some (scan s.sample s.n).1)) (hasMarker s.cfg (scan s.sample s.n).2))
      ∧ (∀ i, i < 8 * (s.msgInLen.toNat + 4) → ∃ b,
          ([s.cfg.m0, s.cfg.m1, s.cfg.m2] ++ s.message s.l ++ [0x00])[i / 8]? = some b
          ∧ t.cell .dst i = (s.cell .src i &&& 0xFE) ||| (if b.getLsbD (7 - i % 8) then 1 else 0))
      ∧ (∀ i, 8 * (s.msgInLen.toNat + 4) ≤ i → i < s.bufLen.toNat → t.cell .dst i = s.cell .src i)
      ∧ (∀ i, s.bufLen.toNat ≤ i → t.cell .dst i = s.cell .dst i)
      ∧ EmbedFrame s t

/-- R162: a frame already in SRC: ALREADY_ENCODED, STATUS 0x622 (SCAN TERMINATED, PREFIX 1), whatever the message and its length,
and nothing but STATUS changes. Only EMBED raises it. -/
def Obligations.EmbedAlreadyEncoded : Prop :=
  RaisedOnlyBy 0x2 [.embed]
    ∧ ∀ s : State, s.embedArgsOk → s.holdsFrame → ∃ t, exec .embed s = .next t ∧ EndsWith t 0x00000622 ∧ OnlyStatus s t

/-- R161: required > capacity after the duplicate-frame check passed: TOO_LARGE, with SCAN and PREFIX of that scan, which are never
(TERMINATED, 1); nothing but STATUS changes. Only EMBED raises it. -/
def Obligations.EmbedTooLarge : Prop :=
  RaisedOnlyBy 0x1 [.embed] ∧ ∀ s : State, s.embedArgsOk → ¬ s.holdsFrame → s.bufLen.toNat / 8 < s.msgInLen.toNat + 4 →
    ∃ t, exec .embed s = .next t
      ∧ EndsWith t (packStatus false true 0x1 (scanBits (some (scan s.sample s.n).1)) (hasMarker s.cfg (scan s.sample s.n).2))
      ∧ ¬ ((scan s.sample s.n).1 = .terminated ∧ hasMarker s.cfg (scan s.sample s.n).2 = true)
      ∧ OnlyStatus s t

/-- R132: with lengths in range, EMBED ends with ALREADY_ENCODED exactly when the decode of SRC is SUCCESS (a MALFORMED or absent
frame passes); the check writes no MOUT cell and not MSG_OUT_LEN. -/
def Obligations.DuplicateCheckIsDecode : Prop :=
  ∀ s : State, s.embedArgsOk → ∃ t, exec .embed s = .next t
    ∧ (t.status.err = 0x2 ↔ ∃ msg, decodeResult s.cfg s.sample s.n = .success msg)
    ∧ SameCells .mout s t ∧ t.msgOutLen = s.msgOutLen

/-- R135, R136: EMBED writes only DST and STATUS, and on any failure no DST cell; on success no DST cell at or above n. -/
def Obligations.EmbedWritesOnlyDst : Prop :=
  ∀ s : State, ∃ t, exec .embed s = .next t ∧ EmbedFrame s t ∧ (t.status.err ≠ 0x0 → SameCells .dst s t)
    ∧ ∀ i, s.bufLen.toNat ≤ i → t.cell .dst i = s.cell .dst i

/-- R133: the capacity check is exact: with lengths in range and no frame in SRC, EMBED succeeds when n >= 8 * (L + 4) and ends with
TOO_LARGE otherwise, also for L near 2^32. -/
def Obligations.CapacityBoundary : Prop :=
  ∀ s : State, s.embedArgsOk → ¬ s.holdsFrame → ∃ t, exec .embed s = .next t
    ∧ (8 * (s.msgInLen.toNat + 4) ≤ s.bufLen.toNat → t.status.err = 0x0)
    ∧ (s.bufLen.toNat < 8 * (s.msgInLen.toNat + 4) → t.status.err = 0x1)

/-- R131, corner case: a buffer of fewer than 32 samples always gives TOO_LARGE. -/
def Obligations.ShortBufferTooLarge : Prop :=
  ∀ s : State, s.embedArgsOk → s.bufLen.toNat < 32 → ∃ t, exec .embed s = .next t ∧ t.status.err = 0x1 ∧ OnlyStatus s t

/-- R168: one code, the first that applies: ILLEGAL before anything; BAD_ARG before the codec's checks; for EMBED ALREADY_ENCODED,
then TOO_LARGE; for DECODE the classifier's outcome. -/
def Obligations.FailurePriority : Prop :=
  (∀ (s : State) (w : Word) (rest : List Event) (e : DecodeError), s.busy = false → s.inbox = .wr 0x00 w :: rest →
      decode w = .error e → ∃ t, step s = .next t ∧ t.status.err = 0xF)
    ∧ (∀ s : State, ∃ t, exec .embed s = .next t
        ∧ (¬ s.embedArgsOk → t.status.err = 0xE)
        ∧ (s.embedArgsOk → s.holdsFrame → t.status.err = 0x2)
        ∧ (s.embedArgsOk → ¬ s.holdsFrame → capacity s.n < required s.l → t.status.err = 0x1)
        ∧ (s.embedArgsOk → ¬ s.holdsFrame → required s.l ≤ capacity s.n → t.status.err = 0x0))
    ∧ (∀ s : State, ∃ t, exec .decode s = .next t
        ∧ (¬ s.decodeArgsOk → t.status.err = 0xE)
        ∧ (s.decodeArgsOk → decodeResult s.cfg s.sample s.n = .noMessage → t.status.err = 0x3)
        ∧ (s.decodeArgsOk → decodeResult s.cfg s.sample s.n = .malformed → t.status.err = 0x4)
        ∧ (s.decodeArgsOk → s.holdsFrame → t.status.err = 0x0))

/-- R26, "Raised by" of R161 to R165: which command can end with which code; 0x5..0xD are never written. -/
def Obligations.CodesRaisedBy : Prop :=
  ∀ (i : Instr) (s t : State), exec i s = .next t →
    t.status.done = true ∧ (t.status.err = 0x0 ∨ t.status.err = 0x1 ∧ i = .embed ∨ t.status.err = 0x2 ∧ i = .embed
      ∨ t.status.err = 0x3 ∧ i = .decode ∨ t.status.err = 0x4 ∧ i = .decode
      ∨ t.status.err = 0xE ∧ (i = .embed ∨ i = .decode))

/-! ## Laws of the codec (41_frame_codec R141) -/

/-- R141 item 1: EMBED of a message without 0x00 succeeds, and DECODE of a buffer that carries its DST returns the message. `u` is
any state in which the host has copied DST into SRC; nothing else of `u` is fixed. -/
def Obligations.EmbedDecodeRoundTrip : Prop :=
  ∀ s : State, s.cfg.wellFormed = true → s.embedArgsOk → ¬ s.holdsFrame → required s.l ≤ capacity s.n →
    (∀ k, k < s.l → s.cell .min k ≠ 0x00) →
    ∃ t, exec .embed s = .next t ∧ t.status.err = 0x0 ∧
      ∀ u : State, u.cfg = s.cfg → u.bufLen = s.bufLen → (∀ i, i < s.n → u.cell .src i = t.cell .dst i) →
        ∃ v, exec .decode u = .next v ∧ EndsWith v 0x00000602 ∧ v.msgOutLen = s.msgInLen
          ∧ ∀ k, k < s.l → v.cell .mout k = s.cell .min k

/-- R137: a message with 0x00 is embedded in full, and DECODE returns the bytes before its first 0x00. -/
def Obligations.DecodeStopsAtFirstNulOfMessage : Prop :=
  ∀ (s : State) (z : Nat), s.cfg.wellFormed = true → s.embedArgsOk → ¬ s.holdsFrame → required s.l ≤ capacity s.n →
    z < s.l → s.cell .min z = 0x00 → (∀ k, k < z → s.cell .min k ≠ 0x00) →
    ∃ t, exec .embed s = .next t ∧ t.status.err = 0x0
      ∧ (∀ k, k < s.l → groupByte (t.cell .dst) (3 + k) = s.cell .min k)
      ∧ ∀ u : State, u.cfg = s.cfg → u.bufLen = s.bufLen → (∀ i, i < s.n → u.cell .src i = t.cell .dst i) →
        ∃ v, exec .decode u = .next v ∧ EndsWith v 0x00000602 ∧ v.msgOutLen.toNat = z
          ∧ ∀ k, k < z → v.cell .mout k = s.cell .min k

/-- R138: an empty message embeds in any buffer of at least 32 samples without a frame, changes only LSBs of cells 0..31, and
decodes to an empty message; with fewer samples EMBED does not succeed. -/
def Obligations.EmptyMessageRoundTrip : Prop :=
  (∀ s : State, s.embedArgsOk → s.msgInLen = 0 → s.bufLen.toNat < 32 →
      ∃ t, exec .embed s = .next t ∧ t.status.err = 0x1 ∧ OnlyStatus s t)
  ∧ ∀ s : State, s.cfg.wellFormed = true → s.embedArgsOk → ¬ s.holdsFrame → s.msgInLen = 0 → 32 ≤ s.bufLen.toNat →
    ∃ t, exec .embed s = .next t ∧ t.status.err = 0x0
      ∧ (∀ i, i < 32 → t.cell .dst i &&& 0xFE = s.cell .src i &&& 0xFE)
      ∧ (∀ i, 32 ≤ i → i < s.n → t.cell .dst i = s.cell .src i)
      ∧ ∀ u : State, u.cfg = s.cfg → u.bufLen = s.bufLen → (∀ i, i < s.n → u.cell .src i = t.cell .dst i) →
        ∃ v, exec .decode u = .next v ∧ EndsWith v 0x00000602 ∧ v.msgOutLen = 0 ∧ SameCells .mout u v

/-- R141 item 2: after a successful EMBED, EMBED of any message on a buffer that carries its DST ends with ALREADY_ENCODED and
changes nothing but STATUS, whatever the new message's length. -/
def Obligations.SecondEmbedRejected : Prop :=
  ∀ s t u : State, s.cfg.wellFormed = true → exec .embed s = .next t → t.status.err = 0x0 →
    u.cfg = s.cfg → u.bufLen = s.bufLen → (∀ i, i < s.n → u.cell .src i = t.cell .dst i) → u.l ≤ u.cfg.minDepth →
    ∃ v, exec .embed u = .next v ∧ EndsWith v 0x00000622 ∧ OnlyStatus u v

/-- R141 items 4 and 5: a buffer whose groups do not begin with MARKER gives NO_MESSAGE; MARKER followed by samples whose LSBs are
all 1 gives MALFORMED. -/
def Obligations.UntouchedAndTruncatedBuffers : Prop :=
  (∀ s : State, s.decodeArgsOk → hasMarker s.cfg (scan s.sample s.n).2 = false →
      ∃ t, exec .decode s = .next t ∧ t.status.err = 0x3 ∧ t.msgOutLen = 0)
    ∧ ∀ s : State, s.cfg.wellFormed = true → s.decodeArgsOk → 24 ≤ s.bufLen.toNat → s.markerInSrc →
      (∀ i, 24 ≤ i → i < s.bufLen.toNat → (s.cell .src i).getLsbD 0 = true) →
      ∃ t, exec .decode s = .next t ∧ EndsWith t 0x00000742 ∧ t.msgOutLen = 0

/-! ## Whole-machine rules -/

/-- R160, R166: there is no trap: every step of every state answers a next state. -/
def Obligations.EveryStepAnswers : Prop := ∀ s : State, ∃ t, step s = .next t

/-- R62 and the "engine never writes" of R30, R31, R34, R35: no command, in either form (that there are two is log 2), changes SRC,
MIN, BUF_LEN, MSG_IN_LEN, OPA, OPB or the configuration. A micro-step changes none of them either, the last one of a command that the
host disturbed included (R185). -/
def Obligations.CommandsNeverWriteInputs : Prop :=
  (∀ (i : Instr) (s t : State), exec i s = .next t →
      SameCells .src s t ∧ SameCells .min s t ∧ SameHostRegs s t ∧ t.cfg = s.cfg)
    ∧ ∀ (s : State) (job : Job), SameCells .src s (s.engineTurn job) ∧ SameCells .min s (s.engineTurn job)
      ∧ SameHostRegs s (s.engineTurn job) ∧ (s.engineTurn job).cfg = s.cfg

/-- R36, R52, R54, R130, R136, R185: what a micro-step of a running command does to the command's outputs, whether the host disturbed
the command or not. A packer command writes no MSG_OUT_LEN and no memory; EMBED no MSG_OUT_LEN, RESULT or MOUT, and no DST cell at
or above its length n (for the `write` phase of a good job: its index is below n); DECODE no RESULT and no DST. While the command goes
on STATUS keeps DONE and every other field, and the job keeps its lengths and whether it is disturbed. When it ends, BUSY is 0 and
DONE is 1: of a disturbed command nothing more is said of the outcome, since the rest is unspecified. Which step a micro-step is, and
what "disturbed" is, are logs 9, 10 and 13. -/
def Obligations.MicroStepWritesOnlyItsOutputs : Prop :=
  ∀ (s : State) (job : Job), s.engine = .running job → s.inbox = [] ∨ job.slots = 0 →
    ∃ t, step s = .next t
      ∧ (∀ op, job.stage = .prim op →
          t.busy = false ∧ t.msgOutLen = s.msgOutLen ∧ (∀ sp, SameCells sp s t))
      ∧ (job.stage = .scan .embed ∨ job.stage = .capchk ∨ job.stage = .write →
          t.msgOutLen = s.msgOutLen ∧ t.result = s.result ∧ SameCells .mout s t
            ∧ (job.ok s.cfg → ∀ a, job.n.toNat ≤ a → t.cell .dst a = s.cell .dst a))
      ∧ (job.stage = .scan .decode ∨ job.stage = .output → t.result = s.result ∧ SameCells .dst s t)
      ∧ (t.busy = true → t.status = s.status ∧ ∃ job', t.engine = .running job' ∧ job'.n = job.n ∧ job'.l = job.l
          ∧ job'.disturbed = job.disturbed)
      ∧ (t.busy = false → t.status.done = true ∧ t.statusWord.getLsbD 0 = false ∧ t.statusWord.getLsbD 1 = true)

/-- R51, R53, R71, R72: what a codec command computes depends on nothing but its operands. Two blocks that agree on BUF_LEN and SRC below
n end a DECODE with the same STATUS, MSG_OUT_LEN and message, whatever MSG_IN_LEN and MIN hold (R31: only EMBED reads them). Two blocks
that agree on MSG_IN_LEN and MIN below L as well end an EMBED with the same STATUS and write the same DST cells. -/
def Obligations.CodecReadsOnlyItsOperands : Prop :=
  (∀ s s' : State, s'.cfg = s.cfg → s'.bufLen = s.bufLen → (∀ i, i < s.n → s'.cell .src i = s.cell .src i) →
    ∃ t t', exec .decode s = .next t ∧ exec .decode s' = .next t' ∧ t'.status = t.status
      ∧ (t.status.err ≠ 0xE → t'.msgOutLen = t.msgOutLen)
      ∧ (t.status.err = 0x0 → ∀ k, k < t.msgOutLen.toNat → t'.cell .mout k = t.cell .mout k))
  ∧ ∀ s s' : State, s'.cfg = s.cfg → s'.bufLen = s.bufLen → s'.msgInLen = s.msgInLen →
    (∀ i, i < s.n → s'.cell .src i = s.cell .src i) → (∀ k, k < s.l → s'.cell .min k = s.cell .min k) →
    ∃ t t', exec .embed s = .next t ∧ exec .embed s' = .next t' ∧ t'.status = t.status
      ∧ (t.status.err = 0x0 → ∀ i, i < s.n → t'.cell .dst i = t.cell .dst i)

/-- R169: while the engine is idle, nothing but a CMD write or a reset changes STATUS or any output. -/
def Obligations.OutcomeStaysUntilNextCommand : Prop :=
  ∀ (s t : State), s.busy = false → step s = .next t →
    (∀ off v rest, s.inbox = .wr off v :: rest → Reg.at off ≠ some .cmd) →
    (∀ off rest, s.inbox = .wrLast off :: rest → Reg.at off ≠ some .cmd) →
    (∀ rest, s.inbox ≠ .reset :: rest) →
    t.busy = false ∧ t.statusWord = s.statusWord ∧ t.msgOutLen = s.msgOutLen ∧ t.result = s.result
      ∧ SameCells .dst s t ∧ SameCells .mout s t

/-! ## The host's accesses -/

/-- R38, R43: host register accesses on an idle block. A read returns the register's value, 0 at a reserved or unaligned offset and
for CMD, and changes nothing; a write stores the word in BUF_LEN, MSG_IN_LEN, OPA or OPB, is a command issue at CMD, and is ignored
elsewhere. -/
def Obligations.HostRegisterAccess : Prop :=
  ∀ (s : State) (rest : List Event) (off : Byte) (v : Word), s.busy = false →
    (s.inbox = .rd off :: rest → step s = .next { s with
        inbox := rest
        outbox := s.outbox ++ [.word (
          if off = 0x04 then s.statusWord else if off = 0x08 then s.bufLen else if off = 0x0C then s.msgInLen
          else if off = 0x10 then s.msgOutLen else if off = 0x14 then s.bufLen >>> 3 else if off = 0x18 then s.opa
          else if off = 0x1C then s.opb else if off = 0x20 then s.result else if off = 0x24 then s.markerReg else 0)] })
    ∧ (s.inbox = .wr off v :: rest → step s =
        if off = 0x00 then (s.setInbox rest).accept v
        else if off = 0x08 then .next { s with inbox := rest, bufLen := v }
        else if off = 0x0C then .next { s with inbox := rest, msgInLen := v }
        else if off = 0x18 then .next { s with inbox := rest, opa := v }
        else if off = 0x1C then .next { s with inbox := rest, opb := v }
        else .next (s.setInbox rest))

/-- R33, R37: CAPACITY is floor(BUF_LEN / 8) at every instant, also while BUSY = 1 and above BUF_DEPTH; MARKER packs byte k in bits
8k+7..8k; a host write changes neither. -/
def Obligations.CapacityAndMarkerViews : Prop :=
  ∀ s : State, (s.regWord 0x14).toNat = s.bufLen.toNat / 8
    ∧ (s.regWord 0x24).toNat = 65536 * s.cfg.m2.toNat + 256 * s.cfg.m1.toNat + s.cfg.m0.toNat
    ∧ (s.cfg.marker = [0x73, 0x74, 0x67] → s.regWord 0x24 = 0x00677473)
    ∧ ∀ v : Word, s.hostWrite 0x14 v = .next s ∧ s.hostWrite 0x24 v = .next s

/-- R55, R56: host byte accesses on an idle block. SRC and MIN are written below the depth; DST, MOUT and indices at or above the
depth ignore writes; a read returns the cell, 0x00 at or above the depth. -/
def Obligations.HostByteAccess : Prop :=
  ∀ (s : State) (rest : List Event) (sp : Space) (a : Nat) (v : Byte), s.busy = false →
    (s.inbox = .rdb sp a :: rest → step s = .next { s with
        inbox := rest, outbox := s.outbox ++ [.byte (if a < s.cfg.depth sp then s.cell sp a else 0x00)] })
    ∧ (s.inbox = .wrb sp a v :: rest → ∃ t, step s = .next t ∧ t.inbox = rest ∧ t.busy = false
        ∧ t.statusWord = s.statusWord ∧ SameHostRegs s t ∧ t.msgOutLen = s.msgOutLen ∧ t.result = s.result ∧ t.cfg = s.cfg
        ∧ ∀ sp' a', t.cell sp' a' =
          if sp' = sp ∧ a' = a ∧ (sp = .src ∨ sp = .min) ∧ a < s.cfg.depth sp then v else s.cell sp' a')

/-- R186: reads while BUSY = 1. STATUS shows BUSY 1 and DONE 0; BUF_LEN, MSG_IN_LEN, OPA, OPB, CAPACITY, MARKER, SRC and MIN return
their values (what DST, MOUT, MSG_OUT_LEN, RESULT, ERR, SCAN and PREFIX read as is left free). -/
def Obligations.BusyReads : Prop :=
  ∀ s : State, s.busy = true →
    (s.regWord 0x04).getLsbD 0 = true ∧ (s.regWord 0x04).getLsbD 1 = false
    ∧ (∀ k, k < 32 → (k = 2 ∨ k = 3 ∨ 11 ≤ k) → (s.regWord 0x04).getLsbD k = false)
    ∧ s.regWord 0x08 = s.bufLen ∧ s.regWord 0x0C = s.msgInLen ∧ s.regWord 0x18 = s.opa ∧ s.regWord 0x1C = s.opb
    ∧ (s.regWord 0x14).toNat = s.bufLen.toNat / 8 ∧ s.regWord 0x24 = s.markerReg
    ∧ (∀ a, a < s.cfg.bufDepth → s.cellByte .src a = s.cell .src a)
    ∧ ∀ a, a < s.cfg.minDepth → s.cellByte .min a = s.cell .min a

/-- R185, R186, R43, R60: host accesses that fall between the micro-steps of a running command (a slot is left for them, log 9). A read
returns the value and changes no state of the block but the counter of free draws; `poll` reads STATUS and stays pending (log 3). A
write to BUF_LEN, MSG_IN_LEN, OPA, OPB or a cell of SRC or MIN lands and marks the command disturbed (log 10); a write to any other
offset (CMD, a read-only register, a reserved or unaligned offset), to a cell at or above the depth, to DST or to MOUT is ignored. A
write of the value last read is a write of that value (log 19). -/
def Obligations.HostAccessWhileBusy : Prop :=
  ∀ (s : State) (job : Job) (rest : List Event) (off : Byte) (v : Word) (sp : Space) (a : Nat) (b : Byte),
    s.engine = .running job → job.slots ≠ 0 →
    (s.inbox = .rd off :: rest → step s = .next { s with
        inbox := rest, engine := .running { job with slots := job.slots - 1 }
        draws := s.draws + 1, outbox := s.outbox ++ [.word (s.regWord off)] })
    ∧ (s.inbox = .rdb sp a :: rest → step s = .next { s with
        inbox := rest, engine := .running { job with slots := job.slots - 1 }
        draws := s.draws + 1, outbox := s.outbox ++ [.byte (s.cellByte sp a)] })
    ∧ (s.inbox = .wr off v :: rest → off = 0x08 ∨ off = 0x0C ∨ off = 0x18 ∨ off = 0x1C → step s = .next { s with
        inbox := rest, engine := .running { job with slots := job.slots - 1, disturbed := true }
        bufLen := if off = 0x08 then v else s.bufLen, msgInLen := if off = 0x0C then v else s.msgInLen
        opa := if off = 0x18 then v else s.opa, opb := if off = 0x1C then v else s.opb })
    ∧ (s.inbox = .wr off v :: rest → off ≠ 0x08 ∧ off ≠ 0x0C ∧ off ≠ 0x18 ∧ off ≠ 0x1C → step s = .next { s with
        inbox := rest, engine := .running { job with slots := job.slots - 1 } })
    ∧ (s.inbox = .poll :: rest → step s = .next { s with
        inbox := .poll :: rest, engine := .running { job with slots := job.slots - 1 }
        draws := s.draws + 1, outbox := s.outbox ++ [.word (s.regWord 0x04)] })
    ∧ (∀ r, s.outbox.getLast? = some r →
        (s.inbox = .wrLast off :: rest → step s = step { s with inbox := .wr off r.toWord :: rest })
        ∧ (s.inbox = .wrbLast sp a :: rest → step s = step { s with inbox := .wrb sp a (r.toWord.setWidth 8) :: rest }))
    ∧ (s.inbox = .wrb sp a b :: rest → ∃ t, step s = .next t
        ∧ t.engine = .running { job with
            slots := job.slots - 1, disturbed := job.disturbed || isInputCell s.cfg sp a }
        ∧ (∀ sp' a', t.cell sp' a' = if sp' = sp ∧ a' = a ∧ isInputCell s.cfg sp a = true then b else s.cell sp' a')
        ∧ SameHostRegs s t ∧ t.msgOutLen = s.msgOutLen ∧ t.result = s.result ∧ t.status = s.status ∧ t.cfg = s.cfg
        ∧ t.inbox = rest ∧ t.outbox = s.outbox)

/-- R77, R188: the host's `copy DST, SRC, n` on an idle block makes SRC cells 0..n-1 equal to DST's and changes no other cell. -/
def Obligations.CopyProgramCopies : Prop :=
  ∀ (s : State) (n : Nat), s.busy = false → n ≤ s.cfg.bufDepth → s.inbox = hostCopy n →
    ∃ t, Reaches (2 * n) s t ∧ t.inbox = [] ∧ t.busy = false ∧ t.statusWord = s.statusWord ∧ t.bufLen = s.bufLen
      ∧ t.cfg = s.cfg ∧ (∀ i, i < n → t.cell .src i = s.cell .dst i) ∧ (∀ i, n ≤ i → t.cell .src i = s.cell .src i)
      ∧ SameCells .dst s t ∧ SameCells .min s t ∧ SameCells .mout s t

/-! ## The engine form -/

/-- R140, R191: with no host access pending, the engine form reaches `finish` within the bound and then the state is, in every
register, memory and status field, what the atomic form gives. That the model has both forms is log 2. The bound counts one CAPCHK step
more than R191 does and lets `finish` fall as log 13 says. -/
def Obligations.EngineRefinesAtomic : Prop :=
  ∀ (s : State) (i : Instr), s.busy = false → s.inbox = [] →
    ∃ k t e, k ≤ stepBound i s.n ∧ Reaches k (s.begin i) t ∧ t.busy = false ∧ exec i s = .next e
      ∧ t = { e with sched := t.sched }

/-- R63, R140: the same with any accesses of a well-behaved host falling between the micro-steps (reads, polls, CMD writes that are
ignored, writes that reach no input): until `finish` the block is busy, and then its registers, memories and status are those of
the atomic form. The two forms are log 2, how the accesses fall is log 9, and that an ignored out-of-range write to SRC or MIN disturbs
nothing is the inference of log 10. -/
def Obligations.WellBehavedHostCannotTellForms : Prop :=
  ∀ (s : State) (i : Instr), s.busy = false → (∀ e ∈ s.inbox, e.quiet s.cfg = true) →
    ∃ k t e, Reaches k (s.begin i) t ∧ t.busy = false ∧ exec i s = .next e ∧ SameButTraffic e t
      ∧ ∀ m u, m < k → Reaches m (s.begin i) u → u.busy = true

/-- R185, R191: whatever the host does meanwhile, writes to inputs and resets included, a running command ends: from every good
state with a command running, a later state is idle. It rests on the model's interleaving (log 9): finitely many host accesses before
each micro-step, and the engine moves when no slot is left. No bound is stated: the number of host accesses between is free. -/
def Obligations.EveryCommandEnds : Prop :=
  ∀ s : State, s.Inv → s.busy = true → ∃ k t, Reaches k s t ∧ t.busy = false

/-! ## Invariants -/

/-- The invariant holds right after reset. -/
def Obligations.InvariantAtReset : Prop := State.reset.Inv

/-- Every step keeps the invariant: memories canonical and within their depths (R50, R56, R61), BUSY and DONE never both 1 (R25),
DONE = 0 with BUSY = 0 only while every output is as reset left it (R25), the engine's registers within the buffer (R126, R139), the
parameters as R9 says. -/
def Obligations.StepKeepsInvariant : Prop := ∀ s t : State, s.Inv → step s = .next t → t.Inv

/-- R9, R20: no step changes the configuration. -/
def Obligations.ConfigurationIsFixed : Prop := ∀ s t : State, step s = .next t → t.cfg = s.cfg

/-! ## Instances -/

/-- R172: a turn of one instance is a step of that instance alone: every other instance is unchanged, and no instance appears or
vanishes. -/
def Obligations.InstancesShareNothing : Prop :=
  ∀ (y z : System) (k : Nat) (turns : List Nat), y.turns = k :: turns → y.step = .next z →
    z.turns = turns ∧ z.blocks.length = y.blocks.length ∧ (∀ m, m ≠ k → z.blocks[m]? = y.blocks[m]?)
      ∧ ∀ s, y.blocks[k]? = some s → ∃ s', step s = .next s' ∧ z.blocks[k]? = some s'
end

