-- ==== Sys2Proof/Laws/State.lean ====
section
/-! SUPPORT. One lemma per field per update of State, so that no later proof unfolds a record update. -/

namespace Sys2Proof.Machine

/-! ## The memory of a space after replacing one -/

@[simp] theorem State.mem_setMem_self (s : State) (sp : Space) (m : Memory) : (s.setMem sp m).mem sp = m := by
  cases sp <;> rfl

theorem State.mem_setMem_ne (s : State) {sp sp' : Space} (h : sp' ≠ sp) (m : Memory) : (s.setMem sp m).mem sp' = s.mem sp' := by
  cases sp <;> cases sp' <;> first | rfl | exact absurd rfl h

@[simp] theorem State.mem_src (s : State) : s.mem .src = s.src := rfl
@[simp] theorem State.mem_dst (s : State) : s.mem .dst = s.dst := rfl
@[simp] theorem State.mem_min (s : State) : s.mem .min = s.min := rfl
@[simp] theorem State.mem_mout (s : State) : s.mem .mout = s.mout := rfl

/-! ## Replacing one memory: the other fields -/

@[simp] theorem State.setMem_cfg (s : State) (sp : Space) (m : Memory) : (s.setMem sp m).cfg = s.cfg := by
  cases sp <;> rfl
@[simp] theorem State.setMem_bufLen (s : State) (sp : Space) (m : Memory) : (s.setMem sp m).bufLen = s.bufLen := by
  cases sp <;> rfl
@[simp] theorem State.setMem_msgInLen (s : State) (sp : Space) (m : Memory) : (s.setMem sp m).msgInLen = s.msgInLen := by
  cases sp <;> rfl
@[simp] theorem State.setMem_msgOutLen (s : State) (sp : Space) (m : Memory) : (s.setMem sp m).msgOutLen = s.msgOutLen := by
  cases sp <;> rfl
@[simp] theorem State.setMem_opa (s : State) (sp : Space) (m : Memory) : (s.setMem sp m).opa = s.opa := by
  cases sp <;> rfl
@[simp] theorem State.setMem_opb (s : State) (sp : Space) (m : Memory) : (s.setMem sp m).opb = s.opb := by
  cases sp <;> rfl
@[simp] theorem State.setMem_result (s : State) (sp : Space) (m : Memory) : (s.setMem sp m).result = s.result := by
  cases sp <;> rfl
@[simp] theorem State.setMem_status (s : State) (sp : Space) (m : Memory) : (s.setMem sp m).status = s.status := by
  cases sp <;> rfl
@[simp] theorem State.setMem_engine (s : State) (sp : Space) (m : Memory) : (s.setMem sp m).engine = s.engine := by
  cases sp <;> rfl
@[simp] theorem State.setMem_epoch (s : State) (sp : Space) (m : Memory) : (s.setMem sp m).epoch = s.epoch := by
  cases sp <;> rfl
@[simp] theorem State.setMem_draws (s : State) (sp : Space) (m : Memory) : (s.setMem sp m).draws = s.draws := by
  cases sp <;> rfl
@[simp] theorem State.setMem_sched (s : State) (sp : Space) (m : Memory) : (s.setMem sp m).sched = s.sched := by
  cases sp <;> rfl
@[simp] theorem State.setMem_form (s : State) (sp : Space) (m : Memory) : (s.setMem sp m).form = s.form := by
  cases sp <;> rfl
@[simp] theorem State.setMem_inbox (s : State) (sp : Space) (m : Memory) : (s.setMem sp m).inbox = s.inbox := by
  cases sp <;> rfl
@[simp] theorem State.setMem_outbox (s : State) (sp : Space) (m : Memory) : (s.setMem sp m).outbox = s.outbox := by
  cases sp <;> rfl

/-! ## Taking a free draw -/

@[simp] theorem State.nextDraw_cfg (s : State) : (s.nextDraw).cfg = s.cfg := rfl
@[simp] theorem State.nextDraw_bufLen (s : State) : (s.nextDraw).bufLen = s.bufLen := rfl
@[simp] theorem State.nextDraw_msgInLen (s : State) : (s.nextDraw).msgInLen = s.msgInLen := rfl
@[simp] theorem State.nextDraw_msgOutLen (s : State) : (s.nextDraw).msgOutLen = s.msgOutLen := rfl
@[simp] theorem State.nextDraw_opa (s : State) : (s.nextDraw).opa = s.opa := rfl
@[simp] theorem State.nextDraw_opb (s : State) : (s.nextDraw).opb = s.opb := rfl
@[simp] theorem State.nextDraw_result (s : State) : (s.nextDraw).result = s.result := rfl
@[simp] theorem State.nextDraw_status (s : State) : (s.nextDraw).status = s.status := rfl
@[simp] theorem State.nextDraw_src (s : State) : (s.nextDraw).src = s.src := rfl
@[simp] theorem State.nextDraw_dst (s : State) : (s.nextDraw).dst = s.dst := rfl
@[simp] theorem State.nextDraw_min (s : State) : (s.nextDraw).min = s.min := rfl
@[simp] theorem State.nextDraw_mout (s : State) : (s.nextDraw).mout = s.mout := rfl
@[simp] theorem State.nextDraw_engine (s : State) : (s.nextDraw).engine = s.engine := rfl
@[simp] theorem State.nextDraw_epoch (s : State) : (s.nextDraw).epoch = s.epoch := rfl
@[simp] theorem State.nextDraw_draws (s : State) : (s.nextDraw).draws = s.draws + 1 := rfl
@[simp] theorem State.nextDraw_sched (s : State) : (s.nextDraw).sched = s.sched := rfl
@[simp] theorem State.nextDraw_form (s : State) : (s.nextDraw).form = s.form := rfl
@[simp] theorem State.nextDraw_inbox (s : State) : (s.nextDraw).inbox = s.inbox := rfl
@[simp] theorem State.nextDraw_outbox (s : State) : (s.nextDraw).outbox = s.outbox := rfl

/-! ## Taking a draw of the interleaving -/

@[simp] theorem State.nextSched_cfg (s : State) : (s.nextSched).cfg = s.cfg := rfl
@[simp] theorem State.nextSched_bufLen (s : State) : (s.nextSched).bufLen = s.bufLen := rfl
@[simp] theorem State.nextSched_msgInLen (s : State) : (s.nextSched).msgInLen = s.msgInLen := rfl
@[simp] theorem State.nextSched_msgOutLen (s : State) : (s.nextSched).msgOutLen = s.msgOutLen := rfl
@[simp] theorem State.nextSched_opa (s : State) : (s.nextSched).opa = s.opa := rfl
@[simp] theorem State.nextSched_opb (s : State) : (s.nextSched).opb = s.opb := rfl
@[simp] theorem State.nextSched_result (s : State) : (s.nextSched).result = s.result := rfl
@[simp] theorem State.nextSched_status (s : State) : (s.nextSched).status = s.status := rfl
@[simp] theorem State.nextSched_src (s : State) : (s.nextSched).src = s.src := rfl
@[simp] theorem State.nextSched_dst (s : State) : (s.nextSched).dst = s.dst := rfl
@[simp] theorem State.nextSched_min (s : State) : (s.nextSched).min = s.min := rfl
@[simp] theorem State.nextSched_mout (s : State) : (s.nextSched).mout = s.mout := rfl
@[simp] theorem State.nextSched_engine (s : State) : (s.nextSched).engine = s.engine := rfl
@[simp] theorem State.nextSched_epoch (s : State) : (s.nextSched).epoch = s.epoch := rfl
@[simp] theorem State.nextSched_draws (s : State) : (s.nextSched).draws = s.draws := rfl
@[simp] theorem State.nextSched_sched (s : State) : (s.nextSched).sched = s.sched + 1 := rfl
@[simp] theorem State.nextSched_form (s : State) : (s.nextSched).form = s.form := rfl
@[simp] theorem State.nextSched_inbox (s : State) : (s.nextSched).inbox = s.inbox := rfl
@[simp] theorem State.nextSched_outbox (s : State) : (s.nextSched).outbox = s.outbox := rfl

/-! ## `finish` (10_state R27) -/

@[simp] theorem State.finish_cfg (s : State) (d : Nat) (c : Code) (st : Option ScanState) (p : Bool) : (s.finish d c st p).cfg = s.cfg := rfl
@[simp] theorem State.finish_bufLen (s : State) (d : Nat) (c : Code) (st : Option ScanState) (p : Bool) : (s.finish d c st p).bufLen = s.bufLen := rfl
@[simp] theorem State.finish_msgInLen (s : State) (d : Nat) (c : Code) (st : Option ScanState) (p : Bool) : (s.finish d c st p).msgInLen = s.msgInLen := rfl
@[simp] theorem State.finish_msgOutLen (s : State) (d : Nat) (c : Code) (st : Option ScanState) (p : Bool) : (s.finish d c st p).msgOutLen = s.msgOutLen := rfl
@[simp] theorem State.finish_opa (s : State) (d : Nat) (c : Code) (st : Option ScanState) (p : Bool) : (s.finish d c st p).opa = s.opa := rfl
@[simp] theorem State.finish_opb (s : State) (d : Nat) (c : Code) (st : Option ScanState) (p : Bool) : (s.finish d c st p).opb = s.opb := rfl
@[simp] theorem State.finish_result (s : State) (d : Nat) (c : Code) (st : Option ScanState) (p : Bool) : (s.finish d c st p).result = s.result := rfl
@[simp] theorem State.finish_status (s : State) (d : Nat) (c : Code) (st : Option ScanState) (p : Bool) : (s.finish d c st p).status = Status.finished c st p := rfl
@[simp] theorem State.finish_src (s : State) (d : Nat) (c : Code) (st : Option ScanState) (p : Bool) : (s.finish d c st p).src = s.src := rfl
@[simp] theorem State.finish_dst (s : State) (d : Nat) (c : Code) (st : Option ScanState) (p : Bool) : (s.finish d c st p).dst = s.dst := rfl
@[simp] theorem State.finish_min (s : State) (d : Nat) (c : Code) (st : Option ScanState) (p : Bool) : (s.finish d c st p).min = s.min := rfl
@[simp] theorem State.finish_mout (s : State) (d : Nat) (c : Code) (st : Option ScanState) (p : Bool) : (s.finish d c st p).mout = s.mout := rfl
@[simp] theorem State.finish_engine (s : State) (d : Nat) (c : Code) (st : Option ScanState) (p : Bool) : (s.finish d c st p).engine = .idle d := rfl
@[simp] theorem State.finish_epoch (s : State) (d : Nat) (c : Code) (st : Option ScanState) (p : Bool) : (s.finish d c st p).epoch = s.epoch := rfl
@[simp] theorem State.finish_draws (s : State) (d : Nat) (c : Code) (st : Option ScanState) (p : Bool) : (s.finish d c st p).draws = s.draws := rfl
@[simp] theorem State.finish_sched (s : State) (d : Nat) (c : Code) (st : Option ScanState) (p : Bool) : (s.finish d c st p).sched = s.sched := rfl
@[simp] theorem State.finish_form (s : State) (d : Nat) (c : Code) (st : Option ScanState) (p : Bool) : (s.finish d c st p).form = s.form := rfl
@[simp] theorem State.finish_inbox (s : State) (d : Nat) (c : Code) (st : Option ScanState) (p : Bool) : (s.finish d c st p).inbox = s.inbox := rfl
@[simp] theorem State.finish_outbox (s : State) (d : Nat) (c : Code) (st : Option ScanState) (p : Bool) : (s.finish d c st p).outbox = s.outbox := rfl

/-! ## The engine goes on -/

@[simp] theorem State.continueJob_cfg (s : State) (job : Job) : (s.continueJob job).cfg = s.cfg := rfl
@[simp] theorem State.continueJob_bufLen (s : State) (job : Job) : (s.continueJob job).bufLen = s.bufLen := rfl
@[simp] theorem State.continueJob_msgInLen (s : State) (job : Job) : (s.continueJob job).msgInLen = s.msgInLen := rfl
@[simp] theorem State.continueJob_msgOutLen (s : State) (job : Job) : (s.continueJob job).msgOutLen = s.msgOutLen := rfl
@[simp] theorem State.continueJob_opa (s : State) (job : Job) : (s.continueJob job).opa = s.opa := rfl
@[simp] theorem State.continueJob_opb (s : State) (job : Job) : (s.continueJob job).opb = s.opb := rfl
@[simp] theorem State.continueJob_result (s : State) (job : Job) : (s.continueJob job).result = s.result := rfl
@[simp] theorem State.continueJob_status (s : State) (job : Job) : (s.continueJob job).status = s.status := rfl
@[simp] theorem State.continueJob_src (s : State) (job : Job) : (s.continueJob job).src = s.src := rfl
@[simp] theorem State.continueJob_dst (s : State) (job : Job) : (s.continueJob job).dst = s.dst := rfl
@[simp] theorem State.continueJob_min (s : State) (job : Job) : (s.continueJob job).min = s.min := rfl
@[simp] theorem State.continueJob_mout (s : State) (job : Job) : (s.continueJob job).mout = s.mout := rfl
@[simp] theorem State.continueJob_engine (s : State) (job : Job) : (s.continueJob job).engine = .running job := rfl
@[simp] theorem State.continueJob_epoch (s : State) (job : Job) : (s.continueJob job).epoch = s.epoch := rfl
@[simp] theorem State.continueJob_draws (s : State) (job : Job) : (s.continueJob job).draws = s.draws := rfl
@[simp] theorem State.continueJob_sched (s : State) (job : Job) : (s.continueJob job).sched = s.sched := rfl
@[simp] theorem State.continueJob_form (s : State) (job : Job) : (s.continueJob job).form = s.form := rfl
@[simp] theorem State.continueJob_inbox (s : State) (job : Job) : (s.continueJob job).inbox = s.inbox := rfl
@[simp] theorem State.continueJob_outbox (s : State) (job : Job) : (s.continueJob job).outbox = s.outbox := rfl

/-! ## Replacing the pending accesses -/

@[simp] theorem State.setInbox_cfg (s : State) (q : List Event) : (s.setInbox q).cfg = s.cfg := rfl
@[simp] theorem State.setInbox_bufLen (s : State) (q : List Event) : (s.setInbox q).bufLen = s.bufLen := rfl
@[simp] theorem State.setInbox_msgInLen (s : State) (q : List Event) : (s.setInbox q).msgInLen = s.msgInLen := rfl
@[simp] theorem State.setInbox_msgOutLen (s : State) (q : List Event) : (s.setInbox q).msgOutLen = s.msgOutLen := rfl
@[simp] theorem State.setInbox_opa (s : State) (q : List Event) : (s.setInbox q).opa = s.opa := rfl
@[simp] theorem State.setInbox_opb (s : State) (q : List Event) : (s.setInbox q).opb = s.opb := rfl
@[simp] theorem State.setInbox_result (s : State) (q : List Event) : (s.setInbox q).result = s.result := rfl
@[simp] theorem State.setInbox_status (s : State) (q : List Event) : (s.setInbox q).status = s.status := rfl
@[simp] theorem State.setInbox_src (s : State) (q : List Event) : (s.setInbox q).src = s.src := rfl
@[simp] theorem State.setInbox_dst (s : State) (q : List Event) : (s.setInbox q).dst = s.dst := rfl
@[simp] theorem State.setInbox_min (s : State) (q : List Event) : (s.setInbox q).min = s.min := rfl
@[simp] theorem State.setInbox_mout (s : State) (q : List Event) : (s.setInbox q).mout = s.mout := rfl
@[simp] theorem State.setInbox_engine (s : State) (q : List Event) : (s.setInbox q).engine = s.engine := rfl
@[simp] theorem State.setInbox_epoch (s : State) (q : List Event) : (s.setInbox q).epoch = s.epoch := rfl
@[simp] theorem State.setInbox_draws (s : State) (q : List Event) : (s.setInbox q).draws = s.draws := rfl
@[simp] theorem State.setInbox_sched (s : State) (q : List Event) : (s.setInbox q).sched = s.sched := rfl
@[simp] theorem State.setInbox_form (s : State) (q : List Event) : (s.setInbox q).form = s.form := rfl
@[simp] theorem State.setInbox_inbox (s : State) (q : List Event) : (s.setInbox q).inbox = q := rfl
@[simp] theorem State.setInbox_outbox (s : State) (q : List Event) : (s.setInbox q).outbox = s.outbox := rfl

/-! ## Writing one cell: the other fields -/

@[simp] theorem State.setCell_cfg (s : State) (sp : Space) (a : Nat) (v : Byte) : (s.setCell sp a v).cfg = s.cfg := by
  simp [State.setCell]
@[simp] theorem State.setCell_bufLen (s : State) (sp : Space) (a : Nat) (v : Byte) : (s.setCell sp a v).bufLen = s.bufLen := by
  simp [State.setCell]
@[simp] theorem State.setCell_msgInLen (s : State) (sp : Space) (a : Nat) (v : Byte) : (s.setCell sp a v).msgInLen = s.msgInLen := by
  simp [State.setCell]
@[simp] theorem State.setCell_msgOutLen (s : State) (sp : Space) (a : Nat) (v : Byte) : (s.setCell sp a v).msgOutLen = s.msgOutLen := by
  simp [State.setCell]
@[simp] theorem State.setCell_opa (s : State) (sp : Space) (a : Nat) (v : Byte) : (s.setCell sp a v).opa = s.opa := by
  simp [State.setCell]
@[simp] theorem State.setCell_opb (s : State) (sp : Space) (a : Nat) (v : Byte) : (s.setCell sp a v).opb = s.opb := by
  simp [State.setCell]
@[simp] theorem State.setCell_result (s : State) (sp : Space) (a : Nat) (v : Byte) : (s.setCell sp a v).result = s.result := by
  simp [State.setCell]
@[simp] theorem State.setCell_status (s : State) (sp : Space) (a : Nat) (v : Byte) : (s.setCell sp a v).status = s.status := by
  simp [State.setCell]
@[simp] theorem State.setCell_engine (s : State) (sp : Space) (a : Nat) (v : Byte) : (s.setCell sp a v).engine = s.engine := by
  simp [State.setCell]
@[simp] theorem State.setCell_epoch (s : State) (sp : Space) (a : Nat) (v : Byte) : (s.setCell sp a v).epoch = s.epoch := by
  simp [State.setCell]
@[simp] theorem State.setCell_draws (s : State) (sp : Space) (a : Nat) (v : Byte) : (s.setCell sp a v).draws = s.draws := by
  simp [State.setCell]
@[simp] theorem State.setCell_sched (s : State) (sp : Space) (a : Nat) (v : Byte) : (s.setCell sp a v).sched = s.sched := by
  simp [State.setCell]
@[simp] theorem State.setCell_form (s : State) (sp : Space) (a : Nat) (v : Byte) : (s.setCell sp a v).form = s.form := by
  simp [State.setCell]
@[simp] theorem State.setCell_inbox (s : State) (sp : Space) (a : Nat) (v : Byte) : (s.setCell sp a v).inbox = s.inbox := by
  simp [State.setCell]
@[simp] theorem State.setCell_outbox (s : State) (sp : Space) (a : Nat) (v : Byte) : (s.setCell sp a v).outbox = s.outbox := by
  simp [State.setCell]

/-! ## Writing a range: the other fields -/

@[simp] theorem State.fill_cfg (s : State) (sp : Space) (f : Nat → Byte) (n : Nat) : (s.fill sp f n).cfg = s.cfg := by
  simp [State.fill]
@[simp] theorem State.fill_bufLen (s : State) (sp : Space) (f : Nat → Byte) (n : Nat) : (s.fill sp f n).bufLen = s.bufLen := by
  simp [State.fill]
@[simp] theorem State.fill_msgInLen (s : State) (sp : Space) (f : Nat → Byte) (n : Nat) : (s.fill sp f n).msgInLen = s.msgInLen := by
  simp [State.fill]
@[simp] theorem State.fill_msgOutLen (s : State) (sp : Space) (f : Nat → Byte) (n : Nat) : (s.fill sp f n).msgOutLen = s.msgOutLen := by
  simp [State.fill]
@[simp] theorem State.fill_opa (s : State) (sp : Space) (f : Nat → Byte) (n : Nat) : (s.fill sp f n).opa = s.opa := by
  simp [State.fill]
@[simp] theorem State.fill_opb (s : State) (sp : Space) (f : Nat → Byte) (n : Nat) : (s.fill sp f n).opb = s.opb := by
  simp [State.fill]
@[simp] theorem State.fill_result (s : State) (sp : Space) (f : Nat → Byte) (n : Nat) : (s.fill sp f n).result = s.result := by
  simp [State.fill]
@[simp] theorem State.fill_status (s : State) (sp : Space) (f : Nat → Byte) (n : Nat) : (s.fill sp f n).status = s.status := by
  simp [State.fill]
@[simp] theorem State.fill_engine (s : State) (sp : Space) (f : Nat → Byte) (n : Nat) : (s.fill sp f n).engine = s.engine := by
  simp [State.fill]
@[simp] theorem State.fill_epoch (s : State) (sp : Space) (f : Nat → Byte) (n : Nat) : (s.fill sp f n).epoch = s.epoch := by
  simp [State.fill]
@[simp] theorem State.fill_draws (s : State) (sp : Space) (f : Nat → Byte) (n : Nat) : (s.fill sp f n).draws = s.draws := by
  simp [State.fill]
@[simp] theorem State.fill_sched (s : State) (sp : Space) (f : Nat → Byte) (n : Nat) : (s.fill sp f n).sched = s.sched := by
  simp [State.fill]
@[simp] theorem State.fill_form (s : State) (sp : Space) (f : Nat → Byte) (n : Nat) : (s.fill sp f n).form = s.form := by
  simp [State.fill]
@[simp] theorem State.fill_inbox (s : State) (sp : Space) (f : Nat → Byte) (n : Nat) : (s.fill sp f n).inbox = s.inbox := by
  simp [State.fill]
@[simp] theorem State.fill_outbox (s : State) (sp : Space) (f : Nat → Byte) (n : Nat) : (s.fill sp f n).outbox = s.outbox := by
  simp [State.fill]

/-! ## Spoiling a range: the other fields -/

@[simp] theorem State.spoil_cfg (s : State) (d : Nat) (sp : Space) (n : Nat) : (s.spoil d sp n).cfg = s.cfg := by
  simp [State.spoil]
@[simp] theorem State.spoil_bufLen (s : State) (d : Nat) (sp : Space) (n : Nat) : (s.spoil d sp n).bufLen = s.bufLen := by
  simp [State.spoil]
@[simp] theorem State.spoil_msgInLen (s : State) (d : Nat) (sp : Space) (n : Nat) : (s.spoil d sp n).msgInLen = s.msgInLen := by
  simp [State.spoil]
@[simp] theorem State.spoil_msgOutLen (s : State) (d : Nat) (sp : Space) (n : Nat) : (s.spoil d sp n).msgOutLen = s.msgOutLen := by
  simp [State.spoil]
@[simp] theorem State.spoil_opa (s : State) (d : Nat) (sp : Space) (n : Nat) : (s.spoil d sp n).opa = s.opa := by
  simp [State.spoil]
@[simp] theorem State.spoil_opb (s : State) (d : Nat) (sp : Space) (n : Nat) : (s.spoil d sp n).opb = s.opb := by
  simp [State.spoil]
@[simp] theorem State.spoil_result (s : State) (d : Nat) (sp : Space) (n : Nat) : (s.spoil d sp n).result = s.result := by
  simp [State.spoil]
@[simp] theorem State.spoil_status (s : State) (d : Nat) (sp : Space) (n : Nat) : (s.spoil d sp n).status = s.status := by
  simp [State.spoil]
@[simp] theorem State.spoil_engine (s : State) (d : Nat) (sp : Space) (n : Nat) : (s.spoil d sp n).engine = s.engine := by
  simp [State.spoil]
@[simp] theorem State.spoil_epoch (s : State) (d : Nat) (sp : Space) (n : Nat) : (s.spoil d sp n).epoch = s.epoch := by
  simp [State.spoil]
@[simp] theorem State.spoil_draws (s : State) (d : Nat) (sp : Space) (n : Nat) : (s.spoil d sp n).draws = s.draws := by
  simp [State.spoil]
@[simp] theorem State.spoil_sched (s : State) (d : Nat) (sp : Space) (n : Nat) : (s.spoil d sp n).sched = s.sched := by
  simp [State.spoil]
@[simp] theorem State.spoil_form (s : State) (d : Nat) (sp : Space) (n : Nat) : (s.spoil d sp n).form = s.form := by
  simp [State.spoil]
@[simp] theorem State.spoil_inbox (s : State) (d : Nat) (sp : Space) (n : Nat) : (s.spoil d sp n).inbox = s.inbox := by
  simp [State.spoil]
@[simp] theorem State.spoil_outbox (s : State) (d : Nat) (sp : Space) (n : Nat) : (s.spoil d sp n).outbox = s.outbox := by
  simp [State.spoil]

/-! ## Which memory a write to a space changes -/

@[simp] theorem State.setCell_src_dst (s : State) (a : Nat) (v : Byte) : (s.setCell .src a v).dst = s.dst := rfl
@[simp] theorem State.setCell_src_min (s : State) (a : Nat) (v : Byte) : (s.setCell .src a v).min = s.min := rfl
@[simp] theorem State.setCell_src_mout (s : State) (a : Nat) (v : Byte) : (s.setCell .src a v).mout = s.mout := rfl
@[simp] theorem State.setCell_dst_src (s : State) (a : Nat) (v : Byte) : (s.setCell .dst a v).src = s.src := rfl
@[simp] theorem State.setCell_dst_min (s : State) (a : Nat) (v : Byte) : (s.setCell .dst a v).min = s.min := rfl
@[simp] theorem State.setCell_dst_mout (s : State) (a : Nat) (v : Byte) : (s.setCell .dst a v).mout = s.mout := rfl
@[simp] theorem State.setCell_min_src (s : State) (a : Nat) (v : Byte) : (s.setCell .min a v).src = s.src := rfl
@[simp] theorem State.setCell_min_dst (s : State) (a : Nat) (v : Byte) : (s.setCell .min a v).dst = s.dst := rfl
@[simp] theorem State.setCell_min_mout (s : State) (a : Nat) (v : Byte) : (s.setCell .min a v).mout = s.mout := rfl
@[simp] theorem State.setCell_mout_src (s : State) (a : Nat) (v : Byte) : (s.setCell .mout a v).src = s.src := rfl
@[simp] theorem State.setCell_mout_dst (s : State) (a : Nat) (v : Byte) : (s.setCell .mout a v).dst = s.dst := rfl
@[simp] theorem State.setCell_mout_min (s : State) (a : Nat) (v : Byte) : (s.setCell .mout a v).min = s.min := rfl
@[simp] theorem State.fill_src_dst (s : State) (f : Nat → Byte) (n : Nat) : (s.fill .src f n).dst = s.dst := rfl
@[simp] theorem State.fill_src_min (s : State) (f : Nat → Byte) (n : Nat) : (s.fill .src f n).min = s.min := rfl
@[simp] theorem State.fill_src_mout (s : State) (f : Nat → Byte) (n : Nat) : (s.fill .src f n).mout = s.mout := rfl
@[simp] theorem State.fill_dst_src (s : State) (f : Nat → Byte) (n : Nat) : (s.fill .dst f n).src = s.src := rfl
@[simp] theorem State.fill_dst_min (s : State) (f : Nat → Byte) (n : Nat) : (s.fill .dst f n).min = s.min := rfl
@[simp] theorem State.fill_dst_mout (s : State) (f : Nat → Byte) (n : Nat) : (s.fill .dst f n).mout = s.mout := rfl
@[simp] theorem State.fill_min_src (s : State) (f : Nat → Byte) (n : Nat) : (s.fill .min f n).src = s.src := rfl
@[simp] theorem State.fill_min_dst (s : State) (f : Nat → Byte) (n : Nat) : (s.fill .min f n).dst = s.dst := rfl
@[simp] theorem State.fill_min_mout (s : State) (f : Nat → Byte) (n : Nat) : (s.fill .min f n).mout = s.mout := rfl
@[simp] theorem State.fill_mout_src (s : State) (f : Nat → Byte) (n : Nat) : (s.fill .mout f n).src = s.src := rfl
@[simp] theorem State.fill_mout_dst (s : State) (f : Nat → Byte) (n : Nat) : (s.fill .mout f n).dst = s.dst := rfl
@[simp] theorem State.fill_mout_min (s : State) (f : Nat → Byte) (n : Nat) : (s.fill .mout f n).min = s.min := rfl
@[simp] theorem State.spoil_src_dst (s : State) (d n : Nat) : (s.spoil d .src n).dst = s.dst := rfl
@[simp] theorem State.spoil_src_min (s : State) (d n : Nat) : (s.spoil d .src n).min = s.min := rfl
@[simp] theorem State.spoil_src_mout (s : State) (d n : Nat) : (s.spoil d .src n).mout = s.mout := rfl
@[simp] theorem State.spoil_dst_src (s : State) (d n : Nat) : (s.spoil d .dst n).src = s.src := rfl
@[simp] theorem State.spoil_dst_min (s : State) (d n : Nat) : (s.spoil d .dst n).min = s.min := rfl
@[simp] theorem State.spoil_dst_mout (s : State) (d n : Nat) : (s.spoil d .dst n).mout = s.mout := rfl
@[simp] theorem State.spoil_min_src (s : State) (d n : Nat) : (s.spoil d .min n).src = s.src := rfl
@[simp] theorem State.spoil_min_dst (s : State) (d n : Nat) : (s.spoil d .min n).dst = s.dst := rfl
@[simp] theorem State.spoil_min_mout (s : State) (d n : Nat) : (s.spoil d .min n).mout = s.mout := rfl
@[simp] theorem State.spoil_mout_src (s : State) (d n : Nat) : (s.spoil d .mout n).src = s.src := rfl
@[simp] theorem State.spoil_mout_dst (s : State) (d n : Nat) : (s.spoil d .mout n).dst = s.dst := rfl
@[simp] theorem State.spoil_mout_min (s : State) (d n : Nat) : (s.spoil d .mout n).min = s.min := rfl
@[simp] theorem State.setCell_dst_dst (s : State) (a : Nat) (v : Byte) : (s.setCell .dst a v).dst = s.dst.write a v := rfl
@[simp] theorem State.setCell_mout_mout (s : State) (a : Nat) (v : Byte) : (s.setCell .mout a v).mout = s.mout.write a v := rfl
@[simp] theorem State.fill_dst_dst (s : State) (f : Nat → Byte) (n : Nat) : (s.fill .dst f n).dst = Memory.fill f n s.dst := rfl
@[simp] theorem State.fill_mout_mout (s : State) (f : Nat → Byte) (n : Nat) : (s.fill .mout f n).mout = Memory.fill f n s.mout := rfl

end Sys2Proof.Machine
end

