-- ==== Sys2Proof/Laws/Memory.lean ====
section
/-! SUPPORT. The laws of one byte memory and of the cells of a state: read after write, canonical form, ranges. -/

namespace Sys2Proof.Machine

/-! ## One byte memory -/

theorem Memory.read?_write_self (m : Memory) (a : Nat) (v : Byte) : (m.write a v).read? a = some v := by
  induction m with
  | nil => simp [Memory.write, Memory.read?]
  | cons p m ih =>
    obtain ⟨k, w⟩ := p
    simp only [Memory.write]
    split
    · simp [Memory.read?]
    · split
      · simp [Memory.read?]
      · simp only [Memory.read?]
        rw [if_neg (by omega)]
        exact ih

theorem Memory.read?_write_ne (m : Memory) {a b : Nat} (h : b ≠ a) (v : Byte) : (m.write a v).read? b = m.read? b := by
  induction m with
  | nil => simp [Memory.write, Memory.read?, Ne.symm h]
  | cons p m ih =>
    obtain ⟨k, w⟩ := p
    simp only [Memory.write]
    split
    · simp [Memory.read?, Ne.symm h]
    · split
      · next hk => subst hk; simp [Memory.read?, Ne.symm h]
      · simp only [Memory.read?]
        rw [ih]

/-- Reading after a write: the written address gives the value, every other is unchanged. -/
theorem Memory.read?_write (m : Memory) (a b : Nat) (v : Byte) :
    (m.write a v).read? b = if b = a then some v else m.read? b := by
  split
  · next h => subst h; exact m.read?_write_self _ v
  · next h => exact m.read?_write_ne h v

/-- A write lists no address but those listed before and its own. -/
theorem Memory.mem_write {m : Memory} {a : Nat} {v : Byte} {p : Host.Cell} (h : p ∈ m.write a v) : p.1 = a ∨ p ∈ m := by
  induction m with
  | nil => simp [Memory.write] at h; simp [h]
  | cons q m ih =>
    obtain ⟨k, w⟩ := q
    simp only [Memory.write] at h
    split at h
    · rcases List.mem_cons.1 h with h | h
      · exact .inl (by simp [h])
      · exact .inr h
    · split at h
      · next hk =>
        rcases List.mem_cons.1 h with h | h
        · exact .inl (by simp [h])
        · exact .inr (List.mem_cons_of_mem _ h)
      · rcases List.mem_cons.1 h with h | h
        · exact .inr (by simp [h])
        · rcases ih h with h | h
          · exact .inl h
          · exact .inr (List.mem_cons_of_mem _ h)

/-- A write keeps the canonical form. -/
theorem Memory.wf_write {m : Memory} (h : m.wf) (a : Nat) (v : Byte) : (m.write a v).wf := by
  induction m with
  | nil => simp [Memory.write, Memory.wf]
  | cons q m ih =>
    obtain ⟨k, w⟩ := q
    have hm := List.pairwise_cons.1 h
    simp only [Memory.write]
    split
    · next hk =>
      refine List.pairwise_cons.2 ⟨fun p hp => ?_, h⟩
      rcases List.mem_cons.1 hp with rfl | hp
      · exact hk
      · exact Nat.lt_trans hk (hm.1 p hp)
    · split
      · next hk => subst hk; exact List.pairwise_cons.2 ⟨hm.1, hm.2⟩
      · refine List.pairwise_cons.2 ⟨fun p hp => ?_, ih hm.2⟩
        rcases Memory.mem_write hp with hp | hp
        · simp only [hp]; omega
        · exact hm.1 p hp

theorem Memory.read?_fill (f : Nat → Byte) (n : Nat) (m : Memory) (a : Nat) :
    (Memory.fill f n m).read? a = if a < n then some (f a) else m.read? a := by
  induction n with
  | zero => simp [Memory.fill]
  | succ n ih =>
    rw [Memory.fill, Memory.read?_write, ih]
    by_cases h : a = n
    · simp [h]
    · by_cases h' : a < n
      · simp [h, h', Nat.lt_succ_of_lt h']
      · simp [h, h', show ¬ a < n + 1 by omega]

theorem Memory.wf_fill {m : Memory} (h : m.wf) (f : Nat → Byte) (n : Nat) : (Memory.fill f n m).wf := by
  induction n with
  | zero => exact h
  | succ n ih => exact Memory.wf_write ih n (f n)

theorem Memory.mem_fill {m : Memory} {f : Nat → Byte} {n : Nat} {p : Host.Cell} (h : p ∈ Memory.fill f n m) :
    p.1 < n ∨ p ∈ m := by
  induction n with
  | zero => exact .inr h
  | succ n ih =>
    rcases Memory.mem_write h with h | h
    · exact .inl (by omega)
    · exact (ih h).imp (by omega) id

theorem Memory.fill_congr {f g : Nat → Byte} {n : Nat} (h : ∀ a, a < n → f a = g a) (m : Memory) :
    Memory.fill f n m = Memory.fill g n m := by
  induction n with
  | zero => rfl
  | succ n ih => rw [Memory.fill, Memory.fill, ih (fun a ha => h a (by omega)), h n (by omega)]

/-- Every byte read is listed and every listed byte is read: in canonical form the list is what `read?` says. -/
theorem Memory.read?_eq_some_iff {m : Memory} (h : m.wf) (a : Nat) (v : Byte) : m.read? a = some v ↔ (a, v) ∈ m := by
  induction m with
  | nil => simp [Memory.read?]
  | cons q m ih =>
    obtain ⟨k, w⟩ := q
    have hm := List.pairwise_cons.1 h
    simp only [Memory.read?, List.mem_cons, Prod.mk.injEq]
    split
    · next hk =>
      subst hk
      constructor
      · intro e; exact .inl ⟨rfl, by simpa using e.symm⟩
      · rintro (⟨-, rfl⟩ | hp)
        · rfl
        · exact absurd (hm.1 _ hp) (by simp)
    · next hk =>
      rw [ih hm.2]
      constructor
      · exact .inr
      · rintro (⟨rfl, -⟩ | hp)
        · exact absurd rfl hk
        · exact hp

/-- Equal memories are equal data: two memories in canonical form that read alike everywhere are the same list. -/
theorem Memory.ext_of_read? {m m' : Memory} (h : m.wf) (h' : m'.wf) (e : ∀ a, m.read? a = m'.read? a) : m = m' := by
  have key : ∀ p : Host.Cell, p ∈ m ↔ p ∈ m' := fun ⟨a, v⟩ => by
    rw [← Memory.read?_eq_some_iff h, ← Memory.read?_eq_some_iff h', e]
  have anti : ∀ p q : Host.Cell, p.1 < q.1 → q.1 < p.1 → p = q := fun p q hp hq => absurd hp (by omega)
  have nd : ∀ {l : Memory}, l.wf → l.Nodup := fun hl => hl.imp (fun hpq e => by subst e; exact Nat.lt_irrefl _ hpq)
  refine List.Perm.eq_of_pairwise (le := fun p q : Host.Cell => p.1 < q.1) (fun p q _ _ => anti p q) h h' ?_
  exact (List.perm_ext_iff_of_nodup (nd h) (nd h')).2 key

/-! ## The cells of a state -/

/-- A cell depends only on its memory, the instance and the epoch. -/
theorem State.cell_congr {s t : State} {sp : Space} (hm : t.mem sp = s.mem sp) (hc : t.cfg = s.cfg) (he : t.epoch = s.epoch)
    (a : Nat) : t.cell sp a = s.cell sp a := by
  simp [State.cell, State.unwritten, hm, hc, he]

theorem State.sample_congr {s t : State} (hm : t.src = s.src) (hc : t.cfg = s.cfg) (he : t.epoch = s.epoch) :
    t.sample = s.sample := funext fun a => State.cell_congr (sp := .src) hm hc he a

theorem State.msgByte_congr {s t : State} (hm : t.min = s.min) (hc : t.cfg = s.cfg) (he : t.epoch = s.epoch) :
    t.msgByte = s.msgByte := funext fun a => State.cell_congr (sp := .min) hm hc he a

/-- What `fill` does to every cell. -/
theorem State.cell_fill (s : State) (sp sp' : Space) (f : Nat → Byte) (n a : Nat) :
    (s.fill sp f n).cell sp' a = if sp' = sp ∧ a < n then f a else s.cell sp' a := by
  by_cases h : sp' = sp
  · subst h
    simp only [State.cell, State.unwritten, State.fill, State.mem_setMem_self, State.setMem_cfg, State.setMem_epoch,
      Memory.read?_fill, true_and]
    split <;> rfl
  · simp only [h, false_and, if_false]
    exact State.cell_congr (State.mem_setMem_ne s h _) (by simp) (by simp) a

/-- What writing one cell does to every cell. -/
theorem State.cell_setCell (s : State) (sp sp' : Space) (b : Nat) (v : Byte) (a : Nat) :
    (s.setCell sp b v).cell sp' a = if sp' = sp ∧ a = b then v else s.cell sp' a := by
  by_cases h : sp' = sp
  · subst h
    simp only [State.cell, State.unwritten, State.setCell, State.mem_setMem_self, State.setMem_cfg, State.setMem_epoch,
      Memory.read?_write, true_and]
    split <;> rfl
  · simp only [h, false_and, if_false]
    exact State.cell_congr (State.mem_setMem_ne s h _) (by simp) (by simp) a

/-- What `spoil` does to every cell: the free draw below the bound. -/
theorem State.cell_spoil (s : State) (d : Nat) (sp sp' : Space) (n a : Nat) :
    (s.spoil d sp n).cell sp' a = if sp' = sp ∧ a < n then Config.freeCell s.cfg.unit d sp a else s.cell sp' a :=
  s.cell_fill sp sp' _ n a

/-! ## Canonical form of the memories of a state -/

theorem State.wf_fill {s : State} (h : ∀ sp, (s.mem sp).wf) (sp : Space) (f : Nat → Byte) (n : Nat) (sp' : Space) :
    ((s.fill sp f n).mem sp').wf := by
  by_cases e : sp' = sp
  · subst e; simpa [State.fill] using Memory.wf_fill (h sp') f n
  · simpa [State.fill, State.mem_setMem_ne s e] using h sp'

theorem State.wf_setCell {s : State} (h : ∀ sp, (s.mem sp).wf) (sp : Space) (a : Nat) (v : Byte) (sp' : Space) :
    ((s.setCell sp a v).mem sp').wf := by
  by_cases e : sp' = sp
  · subst e; simpa [State.setCell] using Memory.wf_write (h sp') a v
  · simpa [State.setCell, State.mem_setMem_ne s e] using h sp'

theorem State.mem_fill {s : State} {sp sp' : Space} {f : Nat → Byte} {n : Nat} {p : Host.Cell}
    (h : p ∈ (s.fill sp f n).mem sp') : (sp' = sp ∧ p.1 < n) ∨ p ∈ s.mem sp' := by
  by_cases e : sp' = sp
  · subst e
    simp only [State.fill, State.mem_setMem_self] at h
    exact (Memory.mem_fill h).imp (fun h => ⟨rfl, h⟩) id
  · simp only [State.fill, State.mem_setMem_ne s e] at h
    exact .inr h

theorem State.mem_setCell {s : State} {sp sp' : Space} {a : Nat} {v : Byte} {p : Host.Cell}
    (h : p ∈ (s.setCell sp a v).mem sp') : (sp' = sp ∧ p.1 = a) ∨ p ∈ s.mem sp' := by
  by_cases e : sp' = sp
  · subst e
    simp only [State.setCell, State.mem_setMem_self] at h
    exact (Memory.mem_write h).imp (fun h => ⟨rfl, h⟩) id
  · simp only [State.setCell, State.mem_setMem_ne s e] at h
    exact .inr h

theorem State.wf_spoil {s : State} (h : ∀ sp, (s.mem sp).wf) (d : Nat) (sp : Space) (n : Nat) (sp' : Space) :
    ((s.spoil d sp n).mem sp').wf := State.wf_fill h sp _ n sp'

/-- Nothing is listed right after reset, so every memory has the canonical form. -/
theorem State.wf_reset (sp : Space) : (State.reset.mem sp).wf := by
  cases sp <;> exact List.Pairwise.nil

end Sys2Proof.Machine
end

