-- ==== Sys2Proof/Laws/Primitives.lean ====
section
/-! SUPPORT. The packer's primitives, bit by bit (40_packer R100 to R104). -/

namespace Sys2Proof.Machine

theorem getLsbD_bit8 (b : Bool) (k : Nat) : (bit8 b).getLsbD k = (decide (k = 0) && b) := by
  cases b
  · simp [bit8]
  · by_cases h : k = 0
    · subst h; rfl
    · simp only [bit8, BitVec.getLsbD_setWidth]
      simp [h]

theorem readLSB_eq (s : Byte) : readLSB s = s.getLsbD 0 := by
  revert s; decide +kernel

/-- Bit 0 of the sample becomes the bit; the other seven bits stay (40_packer R102). -/
theorem getLsbD_writeBitToLSB (s : Byte) (b : Bool) (k : Nat) :
    (writeBitToLSB s b).getLsbD k = if k = 0 then b else s.getLsbD k := by
  by_cases hk : k < 8
  · have : ∀ s : Byte, ∀ k < 8, (writeBitToLSB s b).getLsbD k = if k = 0 then b else s.getLsbD k := by
      revert b; decide +kernel
    exact this s k hk
  · simp [show k ≠ 0 by omega, BitVec.getLsbD_of_ge _ _ (show 8 ≤ k by omega)]

theorem readLSB_writeBitToLSB (s : Byte) (b : Bool) : readLSB (writeBitToLSB s b) = b := by
  rw [readLSB_eq, getLsbD_writeBitToLSB, if_pos rfl]

/-- The bits of `byteOf` (40_packer R101): element `q` of the sequence is bit `7 - q`. -/
theorem getLsbD_byteOf8 (s0 s1 s2 s3 s4 s5 s6 s7 : Bool) (q : Nat) (h : q < 8) :
    (byteOf8 s0 s1 s2 s3 s4 s5 s6 s7).getLsbD (7 - q) = [s0, s1, s2, s3, s4, s5, s6, s7].getD q false := by
  have : ∀ s0 s1 s2 s3 s4 s5 s6 s7 : Bool, ∀ q < 8,
      (byteOf8 s0 s1 s2 s3 s4 s5 s6 s7).getLsbD (7 - q) = [s0, s1, s2, s3, s4, s5, s6, s7].getD q false := by
    decide +kernel
  exact this s0 s1 s2 s3 s4 s5 s6 s7 q h

theorem length_bitsOfByte (b : Byte) : (bitsOfByte b).length = 8 := rfl

theorem getElem?_bitsOfByte (b : Byte) (q : Nat) (h : q < 8) : (bitsOfByte b)[q]? = some (b.getLsbD (7 - q)) := by
  simp [bitsOfByte, h]

theorem bitsOf_cons (b : Byte) (bs : List Byte) : bitsOf (b :: bs) = bitsOfByte b ++ bitsOf bs := rfl

theorem length_bitsOf_eq (bs : List Byte) : (bitsOf bs).length = 8 * bs.length := by
  induction bs with
  | nil => rfl
  | cons b bs ih => rw [bitsOf_cons, List.length_append, ih, length_bitsOfByte, List.length_cons]; omega

/-- Bit `i` of the stream is bit `7 - (i mod 8)` of byte `floor(i / 8)` (40_packer R100). -/
theorem getElem?_bitsOf_eq (bs : List Byte) (i : Nat) :
    (bitsOf bs)[i]? = (bs[i / 8]?).map (fun b => b.getLsbD (7 - i % 8)) := by
  induction bs generalizing i with
  | nil => simp [bitsOf]
  | cons b bs ih =>
    rw [bitsOf_cons]
    by_cases h : i < 8
    · rw [List.getElem?_append_left (by simpa [length_bitsOfByte] using h), getElem?_bitsOfByte b i h]
      simp [Nat.div_eq_of_lt h, Nat.mod_eq_of_lt h]
    · rw [List.getElem?_append_right (by simp [length_bitsOfByte]; omega), length_bitsOfByte, ih]
      have e : i / 8 = (i - 8) / 8 + 1 := by omega
      have e' : i % 8 = (i - 8) % 8 := by omega
      rw [e, e', List.getElem?_cons_succ]

/-- The register byte of a sequence of at most 8 bits: element `k` is bit `k` (40_packer R104). -/
theorem getLsbD_seqWord (l : List Bool) (k : Nat) (h : k < 8) : (seqWord l).getLsbD k = l.getD k false := by
  induction l generalizing k with
  | nil => simp [seqWord]
  | cons b l ih =>
    rw [seqWord, BitVec.getLsbD_or, BitVec.getLsbD_shiftLeft, getLsbD_bit8]
    cases k with
    | zero => simp
    | succ k => simp [ih k (by omega), show k + 1 < 8 by omega]

theorem length_wordSeq (w : Byte) : (wordSeq w).length = 8 := rfl

theorem zext32_getLsbD (b : Byte) (k : Nat) : (zext32 b).getLsbD k = b.getLsbD k := by
  rw [zext32, BitVec.getLsbD_setWidth]
  by_cases h : k < 32
  · simp [h]
  · simp [BitVec.getLsbD_of_ge b k (by omega)]

/-- `byteOf` of the sequence of a register byte answers (40_packer R106: the contract violation cannot arise). -/
theorem byteofResult_eq (s : State) :
    s.byteofResult = zext32 (byteOf8 (s.opaByte.getLsbD 0) (s.opaByte.getLsbD 1) (s.opaByte.getLsbD 2) (s.opaByte.getLsbD 3)
      (s.opaByte.getLsbD 4) (s.opaByte.getLsbD 5) (s.opaByte.getLsbD 6) (s.opaByte.getLsbD 7)) := rfl

end Sys2Proof.Machine
end

