-- ==== Sys2Proof/Laws/Frame.lean ====
section
/-! SUPPORT. The frame and the scanner: what a scan from any point can answer (41_frame_codec R125), and that it reads nothing
outside the buffer. -/

namespace Sys2Proof.Machine

/-- A group's byte is made of the LSBs of its 8 samples (41_frame_codec R124). -/
theorem groupByte_congr {buf buf' : Nat → Byte} {g : Nat} (h : ∀ q, q < 8 → buf (8 * g + q) = buf' (8 * g + q)) :
    groupByte buf g = groupByte buf' g := by
  have h0 := h 0 (by omega)
  simp only [Nat.add_zero] at h0
  simp only [groupByte, h0, h 1 (by omega), h 2 (by omega), h 3 (by omega), h 4 (by omega), h 5 (by omega), h 6 (by omega),
    h 7 (by omega)]

theorem scanFrom_succ (buf : Nat → Byte) (left g : Nat) (acc : List Byte) :
    scanFrom buf (left + 1) g acc = if groupByte buf g = terminator then (.terminated, acc)
      else scanFrom buf left (g + 1) (acc ++ [groupByte buf g]) := rfl

/-- The bytes of groups `g .. g+len-1`. -/
def groupBytes (buf : Nat → Byte) (g len : Nat) : List Byte := (List.range len).map (fun k => groupByte buf (g + k))

theorem length_groupBytes (buf : Nat → Byte) (g len : Nat) : (groupBytes buf g len).length = len := by simp [groupBytes]

theorem groupBytes_succ (buf : Nat → Byte) (g len : Nat) :
    groupBytes buf g (len + 1) = groupByte buf g :: groupBytes buf (g + 1) len := by
  simp only [groupBytes, List.range_succ_eq_map, List.map_cons, List.map_map, Nat.add_zero]
  congr 1
  refine List.map_congr_left fun k _ => ?_
  simp only [Function.comp, Nat.succ_eq_add_one]
  congr 1
  omega

/-- Everything a scan from group `g` with `left` groups to read can answer: it appends the groups before the first terminator, and
stops there, or it runs out. -/
theorem scanFrom_cases (buf : Nat → Byte) (left g : Nat) (acc : List Byte) :
    (∃ len, len < left ∧ scanFrom buf left g acc = (.terminated, acc ++ groupBytes buf g len)
        ∧ groupByte buf (g + len) = terminator ∧ ∀ k, k < len → groupByte buf (g + k) ≠ terminator)
      ∨ (scanFrom buf left g acc = (.exhausted, acc ++ groupBytes buf g left)
        ∧ ∀ k, k < left → groupByte buf (g + k) ≠ terminator) := by
  induction left generalizing g acc with
  | zero => exact .inr ⟨by simp [scanFrom, groupBytes], by intro k hk; omega⟩
  | succ left ih =>
    by_cases h : groupByte buf g = terminator
    · refine .inl ⟨0, by omega, ?_, by simpa using h, by intro k hk; omega⟩
      simp [scanFrom_succ, h, groupBytes]
    · have shift : ∀ {len : Nat}, (∀ k, k < len → groupByte buf (g + 1 + k) ≠ terminator) →
          ∀ k, k < len + 1 → groupByte buf (g + k) ≠ terminator := by
        intro len hl k hk
        cases k with
        | zero => simpa using h
        | succ k => simpa [show g + (k + 1) = g + 1 + k by omega] using hl k (by omega)
      rw [scanFrom_succ, if_neg h]
      rcases ih (g + 1) (acc ++ [groupByte buf g]) with ⟨len, hlt, he, ht, hn⟩ | ⟨he, hn⟩
      · refine .inl ⟨len + 1, by omega, ?_, by simpa [show g + (len + 1) = g + 1 + len by omega] using ht, shift hn⟩
        rw [he, groupBytes_succ]; simp
      · refine .inr ⟨?_, shift hn⟩
        rw [he, groupBytes_succ]; simp

/-- Everything `scan` can answer (41_frame_codec R125). -/
theorem scan_cases (buf : Nat → Byte) (n : Nat) :
    (∃ len, len < capacity n ∧ scan buf n = (.terminated, groupBytes buf 0 len)
        ∧ groupByte buf len = terminator ∧ ∀ k, k < len → groupByte buf k ≠ terminator)
      ∨ (scan buf n = (.exhausted, groupBytes buf 0 (capacity n)) ∧ ∀ k, k < capacity n → groupByte buf k ≠ terminator) := by
  simpa [scan] using scanFrom_cases buf (capacity n) 0 []

/-- The scan terminates at a zero group that only other groups precede. -/
theorem scan_terminated {buf : Nat → Byte} {n len : Nat} (hl : len < capacity n) (ht : groupByte buf len = terminator)
    (hn : ∀ k, k < len → groupByte buf k ≠ terminator) : scan buf n = (.terminated, groupBytes buf 0 len) := by
  rcases scan_cases buf n with ⟨len', -, he, ht', hn'⟩ | ⟨-, hn'⟩
  · have : len' = len := by
      rcases Nat.lt_trichotomy len' len with h | h | h
      · exact absurd ht' (hn _ h)
      · exact h
      · exact absurd ht (hn' _ h)
    rw [he, this]
  · exact absurd ht (hn' _ hl)

/-- The scan is exhausted where no complete group is zero. -/
theorem scan_exhausted {buf : Nat → Byte} {n : Nat} (hn : ∀ k, k < capacity n → groupByte buf k ≠ terminator) :
    scan buf n = (.exhausted, groupBytes buf 0 (capacity n)) := by
  rcases scan_cases buf n with ⟨len, hl, -, ht, -⟩ | ⟨he, -⟩
  · exact absurd ht (hn _ hl)
  · exact he

theorem getElem?_groupBytes (buf : Nat → Byte) (g len k : Nat) :
    (groupBytes buf g len)[k]? = if k < len then some (groupByte buf (g + k)) else none := by
  by_cases h : k < len <;> simp [groupBytes, h]

/-- A scan reads only samples below `8 * capacity(n)`. -/
theorem scan_congr {buf buf' : Nat → Byte} {n : Nat} (h : ∀ i, i < 8 * capacity n → buf i = buf' i) :
    scan buf n = scan buf' n := by
  have key : ∀ left g acc, g + left ≤ capacity n → scanFrom buf left g acc = scanFrom buf' left g acc := by
    intro left
    induction left with
    | zero => intros; rfl
    | succ left ih =>
      intro g acc hg
      have e : groupByte buf g = groupByte buf' g := groupByte_congr fun q hq => h _ (by omega)
      rw [scanFrom_succ, scanFrom_succ, e, ih (g + 1) _ (by omega)]
  exact key (capacity n) 0 [] (by omega)

/-- Frame byte `m`, for `m` within the frame (41_frame_codec R120). -/
theorem length_frame (c : Params) (m : List Byte) : (frame c m).length = required m.length := by
  simp [frame, Params.marker, required]; omega

theorem length_message (s : State) (l : Nat) : (s.message l).length = l := by simp [State.message]

theorem getElem?_message (s : State) (l k : Nat) : (s.message l)[k]? = if k < l then some (s.msgByte k) else none := by
  by_cases h : k < l <;> simp [State.message, h]

/-- The engine's frame byte is the frame's (41_frame_codec R120). -/
theorem frameByte_eq (s : State) (l m : Nat) (h : m < required l) : (frame s.cfg (s.message l))[m]? = some (s.frameByte l m) := by
  have hm : s.cfg.marker = [s.cfg.m0, s.cfg.m1, s.cfg.m2] := rfl
  simp only [frame, hm, List.cons_append, List.nil_append]
  match m with
  | 0 => rfl
  | 1 => rfl
  | 2 => rfl
  | k + 3 =>
    simp only [List.getElem?_cons_succ, State.frameByte]
    by_cases hk : k < l
    · rw [List.getElem?_append_left (by simpa [length_message] using hk), getElem?_message, if_pos hk, if_pos hk]
    · have : k = l := by unfold required at h; omega
      subst this
      rw [List.getElem?_append_right (by simp [length_message])]
      simp [length_message]

/-- Every DST sample EMBED writes (41_frame_codec R134), from the engine's frame byte. -/
theorem embedSample_eq (s : State) (l i : Nat) :
    embedSample s.sample (bitsOf (frame s.cfg (s.message l))) i =
      if i < 8 * required l then writeBitToLSB (s.sample i) ((s.frameByte l (i / 8)).getLsbD (7 - i % 8)) else s.sample i := by
  unfold embedSample
  rw [getElem?_bitsOf_eq]
  by_cases h : i < 8 * required l
  · rw [frameByte_eq s l (i / 8) (by omega)]
    simp [h]
  · rw [List.getElem?_eq_none (by rw [length_frame, length_message]; omega)]
    simp [h]

/-- A byte with given bits, from the most significant one down. -/
theorem byteOf8_of_bits (b : Byte) :
    byteOf8 (b.getLsbD 7) (b.getLsbD 6) (b.getLsbD 5) (b.getLsbD 4) (b.getLsbD 3) (b.getLsbD 2) (b.getLsbD 1) (b.getLsbD 0) = b := by
  revert b; decide +kernel

/-- Group `g` of what EMBED writes is frame byte `g` (41_frame_codec R121, R134). -/
theorem groupByte_embedSample (s : State) (l g : Nat) (h : g < required l) :
    groupByte (embedSample s.sample (bitsOf (frame s.cfg (s.message l)))) g = s.frameByte l g := by
  have bit : ∀ q, q < 8 → readLSB (embedSample s.sample (bitsOf (frame s.cfg (s.message l))) (8 * g + q))
      = (s.frameByte l g).getLsbD (7 - q) := by
    intro q hq
    rw [embedSample_eq, if_pos (by omega), readLSB_writeBitToLSB, show (8 * g + q) / 8 = g by omega,
      show (8 * g + q) % 8 = q by omega]
  have b0 := bit 0 (by omega)
  simp only [Nat.add_zero] at b0
  unfold groupByte
  rw [b0, bit 1 (by omega), bit 2 (by omega), bit 3 (by omega), bit 4 (by omega), bit 5 (by omega), bit 6 (by omega),
    bit 7 (by omega)]
  exact byteOf8_of_bits _

end Sys2Proof.Machine
end

