-- ==== Sys2Proof/Laws/Commands.lean ====
section
/-! SUPPORT. What the commands can do, said once: the outcomes of DECODE and of EMBED, and the fields each leaves alone. -/

namespace Sys2Proof.Machine

/-! ## A DECODE that fails (41_frame_codec R130) -/

@[simp] theorem State.decodeFailed_cfg (s : State) (d c : Nat) : (s.decodeFailed d c).cfg = s.cfg := by
  simp [State.decodeFailed]
@[simp] theorem State.decodeFailed_bufLen (s : State) (d c : Nat) : (s.decodeFailed d c).bufLen = s.bufLen := by
  simp [State.decodeFailed]
@[simp] theorem State.decodeFailed_msgInLen (s : State) (d c : Nat) : (s.decodeFailed d c).msgInLen = s.msgInLen := by
  simp [State.decodeFailed]
@[simp] theorem State.decodeFailed_msgOutLen (s : State) (d c : Nat) : (s.decodeFailed d c).msgOutLen = 0 := by
  simp [State.decodeFailed]
@[simp] theorem State.decodeFailed_opa (s : State) (d c : Nat) : (s.decodeFailed d c).opa = s.opa := by
  simp [State.decodeFailed]
@[simp] theorem State.decodeFailed_opb (s : State) (d c : Nat) : (s.decodeFailed d c).opb = s.opb := by
  simp [State.decodeFailed]
@[simp] theorem State.decodeFailed_result (s : State) (d c : Nat) : (s.decodeFailed d c).result = s.result := by
  simp [State.decodeFailed]
@[simp] theorem State.decodeFailed_status (s : State) (d c : Nat) : (s.decodeFailed d c).status = s.status := by
  simp [State.decodeFailed]
@[simp] theorem State.decodeFailed_src (s : State) (d c : Nat) : (s.decodeFailed d c).src = s.src := by
  simp [State.decodeFailed]
@[simp] theorem State.decodeFailed_dst (s : State) (d c : Nat) : (s.decodeFailed d c).dst = s.dst := by
  simp [State.decodeFailed]
@[simp] theorem State.decodeFailed_min (s : State) (d c : Nat) : (s.decodeFailed d c).min = s.min := by
  simp [State.decodeFailed]
@[simp] theorem State.decodeFailed_engine (s : State) (d c : Nat) : (s.decodeFailed d c).engine = s.engine := by
  simp [State.decodeFailed]
@[simp] theorem State.decodeFailed_epoch (s : State) (d c : Nat) : (s.decodeFailed d c).epoch = s.epoch := by
  simp [State.decodeFailed]
@[simp] theorem State.decodeFailed_draws (s : State) (d c : Nat) : (s.decodeFailed d c).draws = s.draws := by
  simp [State.decodeFailed]
@[simp] theorem State.decodeFailed_sched (s : State) (d c : Nat) : (s.decodeFailed d c).sched = s.sched := by
  simp [State.decodeFailed]
@[simp] theorem State.decodeFailed_form (s : State) (d c : Nat) : (s.decodeFailed d c).form = s.form := by
  simp [State.decodeFailed]
@[simp] theorem State.decodeFailed_inbox (s : State) (d c : Nat) : (s.decodeFailed d c).inbox = s.inbox := by
  simp [State.decodeFailed]
@[simp] theorem State.decodeFailed_outbox (s : State) (d c : Nat) : (s.decodeFailed d c).outbox = s.outbox := by
  simp [State.decodeFailed]

/-! ## A DECODE that succeeds (41_frame_codec R130) -/

@[simp] theorem State.decodeSucceeded_cfg (s : State) (msg : List Byte) : (s.decodeSucceeded msg).cfg = s.cfg := by
  simp [State.decodeSucceeded]
@[simp] theorem State.decodeSucceeded_bufLen (s : State) (msg : List Byte) : (s.decodeSucceeded msg).bufLen = s.bufLen := by
  simp [State.decodeSucceeded]
@[simp] theorem State.decodeSucceeded_msgInLen (s : State) (msg : List Byte) : (s.decodeSucceeded msg).msgInLen = s.msgInLen := by
  simp [State.decodeSucceeded]
@[simp] theorem State.decodeSucceeded_msgOutLen (s : State) (msg : List Byte) : (s.decodeSucceeded msg).msgOutLen = BitVec.ofNat 32 msg.length := by
  simp [State.decodeSucceeded]
@[simp] theorem State.decodeSucceeded_opa (s : State) (msg : List Byte) : (s.decodeSucceeded msg).opa = s.opa := by
  simp [State.decodeSucceeded]
@[simp] theorem State.decodeSucceeded_opb (s : State) (msg : List Byte) : (s.decodeSucceeded msg).opb = s.opb := by
  simp [State.decodeSucceeded]
@[simp] theorem State.decodeSucceeded_result (s : State) (msg : List Byte) : (s.decodeSucceeded msg).result = s.result := by
  simp [State.decodeSucceeded]
@[simp] theorem State.decodeSucceeded_status (s : State) (msg : List Byte) : (s.decodeSucceeded msg).status = s.status := by
  simp [State.decodeSucceeded]
@[simp] theorem State.decodeSucceeded_src (s : State) (msg : List Byte) : (s.decodeSucceeded msg).src = s.src := by
  simp [State.decodeSucceeded]
@[simp] theorem State.decodeSucceeded_dst (s : State) (msg : List Byte) : (s.decodeSucceeded msg).dst = s.dst := by
  simp [State.decodeSucceeded]
@[simp] theorem State.decodeSucceeded_min (s : State) (msg : List Byte) : (s.decodeSucceeded msg).min = s.min := by
  simp [State.decodeSucceeded]
@[simp] theorem State.decodeSucceeded_engine (s : State) (msg : List Byte) : (s.decodeSucceeded msg).engine = s.engine := by
  simp [State.decodeSucceeded]
@[simp] theorem State.decodeSucceeded_epoch (s : State) (msg : List Byte) : (s.decodeSucceeded msg).epoch = s.epoch := by
  simp [State.decodeSucceeded]
@[simp] theorem State.decodeSucceeded_draws (s : State) (msg : List Byte) : (s.decodeSucceeded msg).draws = s.draws := by
  simp [State.decodeSucceeded]
@[simp] theorem State.decodeSucceeded_sched (s : State) (msg : List Byte) : (s.decodeSucceeded msg).sched = s.sched := by
  simp [State.decodeSucceeded]
@[simp] theorem State.decodeSucceeded_form (s : State) (msg : List Byte) : (s.decodeSucceeded msg).form = s.form := by
  simp [State.decodeSucceeded]
@[simp] theorem State.decodeSucceeded_inbox (s : State) (msg : List Byte) : (s.decodeSucceeded msg).inbox = s.inbox := by
  simp [State.decodeSucceeded]
@[simp] theorem State.decodeSucceeded_outbox (s : State) (msg : List Byte) : (s.decodeSucceeded msg).outbox = s.outbox := by
  simp [State.decodeSucceeded]

/-! ## A packer command (40_packer, section 2) -/

@[simp] theorem State.packerDone_cfg (s : State) (r : Word) : (s.packerDone r).cfg = s.cfg := rfl
@[simp] theorem State.packerDone_bufLen (s : State) (r : Word) : (s.packerDone r).bufLen = s.bufLen := rfl
@[simp] theorem State.packerDone_msgInLen (s : State) (r : Word) : (s.packerDone r).msgInLen = s.msgInLen := rfl
@[simp] theorem State.packerDone_msgOutLen (s : State) (r : Word) : (s.packerDone r).msgOutLen = s.msgOutLen := rfl
@[simp] theorem State.packerDone_opa (s : State) (r : Word) : (s.packerDone r).opa = s.opa := rfl
@[simp] theorem State.packerDone_opb (s : State) (r : Word) : (s.packerDone r).opb = s.opb := rfl
@[simp] theorem State.packerDone_result (s : State) (r : Word) : (s.packerDone r).result = r := rfl
@[simp] theorem State.packerDone_status (s : State) (r : Word) : (s.packerDone r).status = Status.finished .success none false := rfl
@[simp] theorem State.packerDone_src (s : State) (r : Word) : (s.packerDone r).src = s.src := rfl
@[simp] theorem State.packerDone_dst (s : State) (r : Word) : (s.packerDone r).dst = s.dst := rfl
@[simp] theorem State.packerDone_min (s : State) (r : Word) : (s.packerDone r).min = s.min := rfl
@[simp] theorem State.packerDone_mout (s : State) (r : Word) : (s.packerDone r).mout = s.mout := rfl
@[simp] theorem State.packerDone_engine (s : State) (r : Word) : (s.packerDone r).engine = .idle s.draws := rfl
@[simp] theorem State.packerDone_epoch (s : State) (r : Word) : (s.packerDone r).epoch = s.epoch := rfl
@[simp] theorem State.packerDone_draws (s : State) (r : Word) : (s.packerDone r).draws = s.draws + 1 := rfl
@[simp] theorem State.packerDone_sched (s : State) (r : Word) : (s.packerDone r).sched = s.sched := rfl
@[simp] theorem State.packerDone_form (s : State) (r : Word) : (s.packerDone r).form = s.form := rfl
@[simp] theorem State.packerDone_inbox (s : State) (r : Word) : (s.packerDone r).inbox = s.inbox := rfl
@[simp] theorem State.packerDone_outbox (s : State) (r : Word) : (s.packerDone r).outbox = s.outbox := rfl

/-! ## What the operands depend on -/

theorem State.cell_eq_of_fields {s t : State} (hs : t.src = s.src) (hd : t.dst = s.dst) (hi : t.min = s.min) (ho : t.mout = s.mout)
    (hc : t.cfg = s.cfg) (he : t.epoch = s.epoch) (sp : Space) (a : Nat) : t.cell sp a = s.cell sp a :=
  State.cell_congr (by cases sp <;> assumption) hc he a

@[simp] theorem State.nextDraw_sample (s : State) : s.nextDraw.sample = s.sample := rfl
@[simp] theorem State.nextDraw_msgByte (s : State) : s.nextDraw.msgByte = s.msgByte := rfl
@[simp] theorem State.nextDraw_message (s : State) (l : Nat) : s.nextDraw.message l = s.message l := rfl
@[simp] theorem State.nextDraw_n (s : State) : s.nextDraw.n = s.n := rfl
@[simp] theorem State.nextDraw_l (s : State) : s.nextDraw.l = s.l := rfl
@[simp] theorem State.nextDraw_cell (s : State) (sp : Space) (a : Nat) : s.nextDraw.cell sp a = s.cell sp a := by
  cases sp <;> rfl
@[simp] theorem State.finish_cell (s : State) (d : Nat) (c : Code) (st : Option ScanState) (p : Bool) (sp : Space) (a : Nat) :
    (s.finish d c st p).cell sp a = s.cell sp a := by
  cases sp <;> rfl
@[simp] theorem State.finish_busy (s : State) (d : Nat) (c : Code) (st : Option ScanState) (p : Bool) :
    (s.finish d c st p).busy = false := rfl
@[simp] theorem State.finish_statusWord (s : State) (d : Nat) (c : Code) (st : Option ScanState) (p : Bool) :
    (s.finish d c st p).statusWord = packStatus false true c.bits (scanBits st) p := rfl

theorem State.cell_decodeFailed (s : State) (d c : Nat) (sp : Space) (a : Nat) :
    (s.decodeFailed d c).cell sp a =
      if sp = .mout ∧ a < Nat.min c s.cfg.moutDepth then Config.freeCell s.cfg.unit d .mout a else s.cell sp a := by
  rw [← s.cell_spoil d .mout sp (Nat.min c s.cfg.moutDepth) a]
  exact State.cell_eq_of_fields rfl rfl rfl rfl rfl rfl sp a

theorem State.cell_decodeSucceeded (s : State) (msg : List Byte) (sp : Space) (a : Nat) :
    (s.decodeSucceeded msg).cell sp a = if sp = .mout ∧ a < msg.length then msg.getD a 0 else s.cell sp a := by
  rw [← s.cell_fill .mout sp (fun k => msg.getD k 0) msg.length a]
  exact State.cell_eq_of_fields rfl rfl rfl rfl rfl rfl sp a

/-! ## The classifier -/

theorem hasMarker_iff (c : Params) (acc : List Byte) : hasMarker c acc = true ↔ ∃ msg, acc = c.m0 :: c.m1 :: c.m2 :: msg := by
  unfold hasMarker Params.marker
  rcases acc with _ | ⟨a, _ | ⟨b, _ | ⟨d, acc⟩⟩⟩ <;> simp

/-- The marker test on the groups a scan accumulated (41_frame_codec R127, R128). -/
theorem hasMarker_groupBytes (c : Params) (buf : Nat → Byte) (len : Nat) :
    hasMarker c (groupBytes buf 0 len) = true ↔
      3 ≤ len ∧ groupByte buf 0 = c.m0 ∧ groupByte buf 1 = c.m1 ∧ groupByte buf 2 = c.m2 := by
  match len with
  | 0 => simp [hasMarker_iff, groupBytes]
  | 1 => simp [hasMarker_iff, groupBytes]
  | 2 => simp [hasMarker_iff, groupBytes, List.range_succ]
  | len + 3 => simp [hasMarker_iff, groupBytes_succ]

theorem decodeResult_eq (c : Params) (buf : Nat → Byte) (n : Nat) :
    decodeResult c buf n = classify c (scan buf n).1 (scan buf n).2 := rfl

/-- A scan never ends in SCANNING. -/
theorem scan_ends (buf : Nat → Byte) (n : Nat) : (scan buf n).1 = .terminated ∨ (scan buf n).1 = .exhausted := by
  rcases scan_cases buf n with ⟨len, -, h, -⟩ | ⟨h, -⟩ <;> simp [h]

/-- The decode is SUCCESS exactly when the scan terminates with MARKER. -/
theorem decodeResult_success_iff (c : Params) (buf : Nat → Byte) (n : Nat) (msg : List Byte) :
    decodeResult c buf n = .success msg ↔
      (scan buf n).1 = .terminated ∧ hasMarker c (scan buf n).2 = true ∧ msg = (scan buf n).2.drop 3 := by
  rw [decodeResult_eq]
  rcases scan_ends buf n with h | h <;> rw [h] <;> cases hm : hasMarker c (scan buf n).2 <;> simp [classify, hm, eq_comm]

/-! ## The outcomes of DECODE and EMBED -/

/-- Everything DECODE can do (41_frame_codec R129). -/
theorem State.decodeDone_cases (s : State) (d : Nat) :
    (s.cfg.bufDepth < s.n ∧ s.decodeDone d = s.finish d .badArg none false)
    ∨ (s.n ≤ s.cfg.bufDepth ∧ (
      (∃ msg, decodeResult s.cfg s.sample s.n = .success msg
        ∧ s.decodeDone d = (s.decodeSucceeded msg).finish d .success (some .terminated) true)
      ∨ (decodeResult s.cfg s.sample s.n = .noMessage ∧ hasMarker s.cfg (scan s.sample s.n).2 = false
        ∧ s.decodeDone d = (s.decodeFailed d (capacity s.n)).finish d .noMessage (some (scan s.sample s.n).1) false)
      ∨ (decodeResult s.cfg s.sample s.n = .malformed ∧ (scan s.sample s.n).1 = .exhausted
        ∧ hasMarker s.cfg (scan s.sample s.n).2 = true
        ∧ s.decodeDone d = (s.decodeFailed d (capacity s.n)).finish d .malformed (some .exhausted) true))) := by
  by_cases hb : s.cfg.bufDepth < s.n
  · exact .inl ⟨hb, by rw [State.decodeDone, if_pos hb]⟩
  · refine .inr ⟨by omega, ?_⟩
    rw [decodeResult_eq]
    unfold State.decodeDone
    rw [if_neg hb]
    rcases scan_ends s.sample s.n with h | h <;> cases hm : hasMarker s.cfg (scan s.sample s.n).2 <;>
      simp [classify, h, hm]

/-- Everything EMBED can do (41_frame_codec R131). -/
theorem State.embedDone_cases (s : State) (d : Nat) :
    ((s.cfg.bufDepth < s.n ∨ s.cfg.minDepth < s.l) ∧ s.embedDone d = s.finish d .badArg none false)
    ∨ (s.n ≤ s.cfg.bufDepth ∧ s.l ≤ s.cfg.minDepth ∧ (
      ((∃ msg, decodeResult s.cfg s.sample s.n = .success msg)
        ∧ s.embedDone d = s.finish d .alreadyEncoded (some .terminated) true)
      ∨ ((¬ ∃ msg, decodeResult s.cfg s.sample s.n = .success msg) ∧ capacity s.n < required s.l
        ∧ s.embedDone d = s.finish d .tooLarge (some (scan s.sample s.n).1) (hasMarker s.cfg (scan s.sample s.n).2))
      ∨ ((¬ ∃ msg, decodeResult s.cfg s.sample s.n = .success msg) ∧ required s.l ≤ capacity s.n
        ∧ s.embedDone d = (s.fill .dst (embedSample s.sample (bitsOf (frame s.cfg (s.message s.l)))) s.n).finish d .success
          (some (scan s.sample s.n).1) (hasMarker s.cfg (scan s.sample s.n).2)))) := by
  by_cases hb : s.cfg.bufDepth < s.n ∨ s.cfg.minDepth < s.l
  · exact .inl ⟨hb, by rw [State.embedDone, if_pos hb]⟩
  · refine .inr ⟨by omega, by omega, ?_⟩
    rw [decodeResult_eq]
    unfold State.embedDone
    rw [if_neg hb]
    by_cases hc : capacity s.n < required s.l <;> rcases scan_ends s.sample s.n with h | h <;>
      cases hm : hasMarker s.cfg (scan s.sample s.n).2 <;> simp [classify, h, hm, hc] <;> omega

/-! ## The commands as dispatched -/

theorem exec_bitsof (s : State) : exec .bitsof s = .next (s.packerDone s.bitsofResult) := rfl
theorem exec_byteof (s : State) : exec .byteof s = .next (s.packerDone s.byteofResult) := rfl
theorem exec_wrlsb (s : State) : exec .wrlsb s = .next (s.packerDone s.wrlsbResult) := rfl
theorem exec_rdlsb (s : State) : exec .rdlsb s = .next (s.packerDone s.rdlsbResult) := rfl
theorem exec_embed (s : State) : exec .embed s = .next (s.nextDraw.embedDone s.draws) := rfl
theorem exec_decode (s : State) : exec .decode s = .next (s.nextDraw.decodeDone s.draws) := rfl

end Sys2Proof.Machine
end

