-- ==== Sys2Proof/Laws/Step.lean ====
section
/-! SUPPORT. What a step can do, said once: the engine's micro-step, or one input of the host. -/

namespace Sys2Proof.Machine

theorem State.busy_eq_false_iff (s : State) : s.busy = false ↔ ∃ d, s.engine = .idle d := by
  unfold State.busy Engine.isRunning
  cases s.engine <;> simp

theorem State.busy_eq_true_iff (s : State) : s.busy = true ↔ ∃ job, s.engine = .running job := by
  unfold State.busy Engine.isRunning
  cases s.engine <;> simp

@[simp] theorem State.setInbox_busy (s : State) (q : List Event) : (s.setInbox q).busy = s.busy := rfl
@[simp] theorem State.setInbox_statusWord (s : State) (q : List Event) : (s.setInbox q).statusWord = s.statusWord := rfl
@[simp] theorem State.setInbox_cell (s : State) (q : List Event) (sp : Space) (a : Nat) :
    (s.setInbox q).cell sp a = s.cell sp a := by
  cases sp <;> rfl

theorem State.useSlot_of_idle {s : State} (h : s.busy = false) : s.useSlot = s := by
  obtain ⟨d, hd⟩ := s.busy_eq_false_iff.1 h
  simp only [State.useSlot, hd]

theorem State.disturb_of_idle {s : State} (h : s.busy = false) : s.disturb = s := by
  obtain ⟨d, hd⟩ := s.busy_eq_false_iff.1 h
  simp only [State.disturb, hd]

theorem State.engineMoves_of_idle {s : State} (h : s.busy = false) : s.engineMoves = none := by
  obtain ⟨d, hd⟩ := s.busy_eq_false_iff.1 h
  simp only [State.engineMoves, hd]

/-- With the engine idle, a step performs the oldest pending input. -/
theorem step_idle {s : State} {e : Event} {rest : List Event} (h : s.busy = false) (hi : s.inbox = e :: rest) :
    step s = (s.setInbox rest).perform e := by
  simp only [step, State.move, State.engineMoves_of_idle h, State.hostTurn, hi, State.useSlot_of_idle h]

/-- With the engine idle and nothing pending, a step changes nothing (60_exceptions R176). -/
theorem step_idle_nil {s : State} (h : s.busy = false) (hi : s.inbox = []) : step s = .next s := by
  simp only [step, State.move, State.engineMoves_of_idle h, State.hostTurn, hi]

/-- The engine moves when nothing is pending or no slot is left. -/
theorem step_engine {s : State} {job : Job} (h : s.engine = .running job) (hm : s.inbox = [] ∨ job.slots = 0) :
    step s = .next (s.engineTurn job) := by
  simp only [step, State.move, State.engineMoves, h, if_pos hm]

/-- The host moves when something is pending and a slot is left. -/
theorem step_host {s : State} {job : Job} {e : Event} {rest : List Event} (h : s.engine = .running job)
    (hi : s.inbox = e :: rest) (hs : job.slots ≠ 0) : step s = (s.useSlot.setInbox rest).perform e := by
  have hm : s.engineMoves = none := by simp [State.engineMoves, h, hi, hs]
  simp only [step, State.move, hm, State.hostTurn, hi]

/-- Everything a step can do. -/
theorem step_cases (s : State) :
    (s.busy = false ∧ s.inbox = [] ∧ step s = .next s)
    ∨ (∃ job, s.engine = .running job ∧ (s.inbox = [] ∨ job.slots = 0) ∧ step s = .next (s.engineTurn job))
    ∨ (∃ e rest, s.inbox = e :: rest ∧ (∀ job, s.engine = .running job → job.slots ≠ 0)
        ∧ step s = (s.useSlot.setInbox rest).perform e) := by
  cases hb : s.busy
  · cases hi : s.inbox with
    | nil => exact .inl ⟨rfl, rfl, step_idle_nil hb hi⟩
    | cons e rest =>
      refine .inr (.inr ⟨e, rest, rfl, fun job hj => ?_, by rw [step_idle hb hi, State.useSlot_of_idle hb]⟩)
      obtain ⟨d, hd⟩ := s.busy_eq_false_iff.1 hb
      rw [hd] at hj; cases hj
  · obtain ⟨job, hj⟩ := s.busy_eq_true_iff.1 hb
    by_cases hm : s.inbox = [] ∨ job.slots = 0
    · exact .inr (.inl ⟨job, hj, hm, step_engine hj hm⟩)
    · cases hi : s.inbox with
      | nil => exact absurd (.inl hi) hm
      | cons e rest =>
        have hs : job.slots ≠ 0 := fun h => hm (.inr h)
        refine .inr (.inr ⟨e, rest, rfl, fun job' hj' => ?_, step_host hj hi hs⟩)
        rw [hj] at hj'; cases hj'; exact hs

/-- A write to CMD while BUSY = 0 is an acceptance (10_state R22). -/
theorem perform_command {s : State} (h : s.busy = false) (w : Word) : s.perform (.wr 0x00 w) = s.accept w := by
  simp only [State.perform, State.hostWrite, Reg.at, h]; rfl

/-! ## Which fields the slot and the disturbance leave alone -/

@[simp] theorem State.useSlot_cfg (s : State) : s.useSlot.cfg = s.cfg := by
  unfold State.useSlot; split <;> rfl
@[simp] theorem State.useSlot_bufLen (s : State) : s.useSlot.bufLen = s.bufLen := by
  unfold State.useSlot; split <;> rfl
@[simp] theorem State.useSlot_msgInLen (s : State) : s.useSlot.msgInLen = s.msgInLen := by
  unfold State.useSlot; split <;> rfl
@[simp] theorem State.useSlot_msgOutLen (s : State) : s.useSlot.msgOutLen = s.msgOutLen := by
  unfold State.useSlot; split <;> rfl
@[simp] theorem State.useSlot_opa (s : State) : s.useSlot.opa = s.opa := by
  unfold State.useSlot; split <;> rfl
@[simp] theorem State.useSlot_opb (s : State) : s.useSlot.opb = s.opb := by
  unfold State.useSlot; split <;> rfl
@[simp] theorem State.useSlot_result (s : State) : s.useSlot.result = s.result := by
  unfold State.useSlot; split <;> rfl
@[simp] theorem State.useSlot_status (s : State) : s.useSlot.status = s.status := by
  unfold State.useSlot; split <;> rfl
@[simp] theorem State.useSlot_src (s : State) : s.useSlot.src = s.src := by
  unfold State.useSlot; split <;> rfl
@[simp] theorem State.useSlot_dst (s : State) : s.useSlot.dst = s.dst := by
  unfold State.useSlot; split <;> rfl
@[simp] theorem State.useSlot_min (s : State) : s.useSlot.min = s.min := by
  unfold State.useSlot; split <;> rfl
@[simp] theorem State.useSlot_mout (s : State) : s.useSlot.mout = s.mout := by
  unfold State.useSlot; split <;> rfl
@[simp] theorem State.useSlot_epoch (s : State) : s.useSlot.epoch = s.epoch := by
  unfold State.useSlot; split <;> rfl
@[simp] theorem State.useSlot_draws (s : State) : s.useSlot.draws = s.draws := by
  unfold State.useSlot; split <;> rfl
@[simp] theorem State.useSlot_sched (s : State) : s.useSlot.sched = s.sched := by
  unfold State.useSlot; split <;> rfl
@[simp] theorem State.useSlot_form (s : State) : s.useSlot.form = s.form := by
  unfold State.useSlot; split <;> rfl
@[simp] theorem State.useSlot_inbox (s : State) : s.useSlot.inbox = s.inbox := by
  unfold State.useSlot; split <;> rfl
@[simp] theorem State.useSlot_outbox (s : State) : s.useSlot.outbox = s.outbox := by
  unfold State.useSlot; split <;> rfl
@[simp] theorem State.useSlot_busy (s : State) : s.useSlot.busy = s.busy := by
  unfold State.useSlot State.busy; split <;> simp_all [Engine.isRunning]
@[simp] theorem State.disturb_cfg (s : State) : s.disturb.cfg = s.cfg := by
  unfold State.disturb; split <;> rfl
@[simp] theorem State.disturb_bufLen (s : State) : s.disturb.bufLen = s.bufLen := by
  unfold State.disturb; split <;> rfl
@[simp] theorem State.disturb_msgInLen (s : State) : s.disturb.msgInLen = s.msgInLen := by
  unfold State.disturb; split <;> rfl
@[simp] theorem State.disturb_msgOutLen (s : State) : s.disturb.msgOutLen = s.msgOutLen := by
  unfold State.disturb; split <;> rfl
@[simp] theorem State.disturb_opa (s : State) : s.disturb.opa = s.opa := by
  unfold State.disturb; split <;> rfl
@[simp] theorem State.disturb_opb (s : State) : s.disturb.opb = s.opb := by
  unfold State.disturb; split <;> rfl
@[simp] theorem State.disturb_result (s : State) : s.disturb.result = s.result := by
  unfold State.disturb; split <;> rfl
@[simp] theorem State.disturb_status (s : State) : s.disturb.status = s.status := by
  unfold State.disturb; split <;> rfl
@[simp] theorem State.disturb_src (s : State) : s.disturb.src = s.src := by
  unfold State.disturb; split <;> rfl
@[simp] theorem State.disturb_dst (s : State) : s.disturb.dst = s.dst := by
  unfold State.disturb; split <;> rfl
@[simp] theorem State.disturb_min (s : State) : s.disturb.min = s.min := by
  unfold State.disturb; split <;> rfl
@[simp] theorem State.disturb_mout (s : State) : s.disturb.mout = s.mout := by
  unfold State.disturb; split <;> rfl
@[simp] theorem State.disturb_epoch (s : State) : s.disturb.epoch = s.epoch := by
  unfold State.disturb; split <;> rfl
@[simp] theorem State.disturb_draws (s : State) : s.disturb.draws = s.draws := by
  unfold State.disturb; split <;> rfl
@[simp] theorem State.disturb_sched (s : State) : s.disturb.sched = s.sched := by
  unfold State.disturb; split <;> rfl
@[simp] theorem State.disturb_form (s : State) : s.disturb.form = s.form := by
  unfold State.disturb; split <;> rfl
@[simp] theorem State.disturb_inbox (s : State) : s.disturb.inbox = s.inbox := by
  unfold State.disturb; split <;> rfl
@[simp] theorem State.disturb_outbox (s : State) : s.disturb.outbox = s.outbox := by
  unfold State.disturb; split <;> rfl
@[simp] theorem State.disturb_busy (s : State) : s.disturb.busy = s.busy := by
  unfold State.disturb State.busy; split <;> simp_all [Engine.isRunning]

end Sys2Proof.Machine
end

