-- ==== Sys2Proof/Laws/Engine.lean ====
section
/-! SUPPORT. What the engine's micro-steps can do, said once: the fields none of them writes, and how a command ends. -/

namespace Sys2Proof.Machine

/-- The fields no micro-step of the engine writes: the configuration, the host's registers, SRC, MIN and the model's own fields. -/
structure EngineKeeps (s t : State) : Prop where
  cfg      : t.cfg = s.cfg
  bufLen   : t.bufLen = s.bufLen
  msgInLen : t.msgInLen = s.msgInLen
  opa      : t.opa = s.opa
  opb      : t.opb = s.opb
  src      : t.src = s.src
  min      : t.min = s.min
  epoch    : t.epoch = s.epoch
  draws    : t.draws = s.draws
  form     : t.form = s.form
  inbox    : t.inbox = s.inbox
  outbox   : t.outbox = s.outbox

theorem EngineKeeps.trans {a b c : State} (h : EngineKeeps a b) (k : EngineKeeps b c) : EngineKeeps a c :=
  ⟨k.1.trans h.1, k.2.trans h.2, k.3.trans h.3, k.4.trans h.4, k.5.trans h.5, k.6.trans h.6, k.7.trans h.7, k.8.trans h.8,
    k.9.trans h.9, k.10.trans h.10, k.11.trans h.11, k.12.trans h.12⟩

theorem EngineKeeps.continueJob (s : State) (job : Job) : EngineKeeps s (s.continueJob job) :=
  ⟨rfl, rfl, rfl, rfl, rfl, rfl, rfl, rfl, rfl, rfl, rfl, rfl⟩

theorem EngineKeeps.finishJob (s : State) (job : Job) (c : Code) (st : Option ScanState) (p : Bool) :
    EngineKeeps s (s.finishJob job c st p) := by
  unfold State.finishJob
  split
  · unfold State.spoilOutputs
    split <;> constructor <;> simp
  · constructor <;> simp

theorem EngineKeeps.decodeFailed (s : State) (d c : Nat) : EngineKeeps s (s.decodeFailed d c) := by
  constructor <;> simp

theorem EngineKeeps.leaveScan (s : State) (job : Job) (c : Codec) (w : Work) : EngineKeeps s (s.leaveScan job c w) := by
  unfold State.leaveScan
  split
  · exact .continueJob s _
  · split
    · exact .continueJob s _
    · exact (EngineKeeps.decodeFailed s _ _).trans (.finishJob _ _ _ _ _)
    · exact (EngineKeeps.decodeFailed s _ _).trans (.finishJob _ _ _ _ _)

/-- One micro-step, whatever its phase, writes none of these fields. -/
theorem EngineKeeps.engineStep (s : State) (job : Job) : EngineKeeps s (s.engineStep job) := by
  unfold State.engineStep
  split
  · unfold State.primStep
    exact .trans (b := { s with result := s.primResult _ }) (by constructor <;> rfl) (.finishJob _ _ _ _ _)
  · unfold State.scanStep
    dsimp only
    split
    · exact .finishJob _ _ _ _ _
    · split
      · exact .leaveScan _ _ _ _
      · split
        · split
          · exact .leaveScan _ _ _ _
          · exact .continueJob _ _
        · exact .continueJob _ _
  · unfold State.capchkStep
    dsimp only
    split
    · exact .finishJob _ _ _ _ _
    · split
      · exact .finishJob _ _ _ _ _
      · exact .continueJob _ _
  · unfold State.writeStep
    dsimp only
    have h : ∀ v, EngineKeeps s (s.setCell .dst job.work.i.toNat v) := fun v => by constructor <;> simp
    split
    · exact (h _).trans (.continueJob _ _)
    · exact (h _).trans (.finishJob _ _ _ _ _)
  · unfold State.outputStep
    dsimp only
    split
    · exact .trans (b := s.setCell .mout _ _) (by constructor <;> simp) (.continueJob _ _)
    · exact .trans (b := { s with msgOutLen := _ }) (by constructor <;> rfl) (.finishJob _ _ _ _ _)

/-- The draw of the interleaving touches the engine's slots and the counter `sched` only. -/
theorem State.drawSlots_eq (s : State) :
    s.drawSlots = { s with engine := s.drawSlots.engine, sched := s.drawSlots.sched } := by
  unfold State.drawSlots
  split <;> rfl

/-- However a command ends, the engine is idle, its registers the command's draw, and DONE is 1 (10_state R27). -/
theorem State.finishJob_ends (s : State) (job : Job) (c : Code) (st : Option ScanState) (p : Bool) :
    (s.finishJob job c st p).engine = .idle job.draw ∧ (s.finishJob job c st p).status.done = true := by
  unfold State.finishJob
  split <;> exact ⟨rfl, rfl⟩

/-! ## What a disturbed command spoils (70_reset R185), by command -/

theorem State.spoilOutputs_prim {job : Job} {op : Prim} (h : job.stage = .prim op) (s : State) :
    s.spoilOutputs job = { s with result := freeResult s.cfg.unit job.draw } := by
  unfold State.spoilOutputs
  rw [h]

theorem State.spoilOutputs_embed {job : Job} (h : job.stage = .scan .embed ∨ job.stage = .capchk ∨ job.stage = .write)
    (s : State) : s.spoilOutputs job = s.spoil job.draw .dst (Nat.min job.n.toNat s.cfg.bufDepth) := by
  unfold State.spoilOutputs
  rcases h with h | h | h <;> rw [h]

theorem State.spoilOutputs_decode {job : Job} (h : job.stage = .scan .decode ∨ job.stage = .output) (s : State) :
    s.spoilOutputs job =
      { s.spoil job.draw .mout s.cfg.moutDepth with msgOutLen := freeMsgOutLen s.cfg.unit job.draw } := by
  unfold State.spoilOutputs
  rcases h with h | h <;> rw [h]

/-- A command that no input disturbed ends as its rule says. -/
theorem State.finishJob_of_quiet {job : Job} (h : job.disturbed = false) (s : State) (c : Code) (st : Option ScanState)
    (p : Bool) : s.finishJob job c st p = s.finish job.draw c st p := by
  unfold State.finishJob
  simp [h]

end Sys2Proof.Machine
end

