-- ==== Sys2Proof/Laws/HostPort.lean ====
section
/-! SUPPORT. The host's accesses, said once: the register at every offset, and what a write does to an idle block. -/

namespace Sys2Proof.Machine

/-- Which register stands at which offset (10_state R21, R38). -/
theorem Reg.at_eq (off : Byte) : Reg.at off =
    if off = 0x00 then some .cmd else if off = 0x04 then some .status else if off = 0x08 then some .bufLen
    else if off = 0x0C then some .msgInLen else if off = 0x10 then some .msgOutLen else if off = 0x14 then some .capacity
    else if off = 0x18 then some .opa else if off = 0x1C then some .opb else if off = 0x20 then some .result
    else if off = 0x24 then some .marker else none := by
  revert off; decide +kernel

/-- A host write of a register of an idle block (10_state R43). -/
theorem State.hostWrite_idle {s : State} (h : s.busy = false) (off : Byte) (v : Word) : s.hostWrite off v =
    match Reg.at off with
    | some .cmd => s.accept v
    | some .bufLen => .next { s with bufLen := v }
    | some .msgInLen => .next { s with msgInLen := v }
    | some .opa => .next { s with opa := v }
    | some .opb => .next { s with opb := v }
    | _ => .next s := by
  have quiet : ∀ t : State, t.engine = s.engine → t.disturb = t := fun t ht =>
    State.disturb_of_idle (by unfold State.busy; rw [ht]; exact h)
  unfold State.hostWrite
  cases Reg.at off with
  | none => rfl
  | some r => cases r <;> simp [h, quiet]

/-- CAPACITY is BUF_LEN shifted right by 3 (10_state R33). -/
theorem State.capacityReg_eq (s : State) : s.capacityReg = s.bufLen >>> 3 := by
  unfold State.capacityReg
  apply BitVec.eq_of_toNat_eq
  have := s.bufLen.isLt
  simp [Nat.shiftRight_eq_div_pow]
  omega

end Sys2Proof.Machine
end

