-- ==== Sys2Proof/Laws/PerInstr.lean ====
section
/-! SUPPORT. Families of statements with one lemma per constructor of `Instr`. -/

/-- An instruction's encoding is a well-formed command word, and decodes to the instruction (30_encoding R71, R75). -/
def Sys2Proof.Laws.RoundTrip.Statement (i : Sys2Proof.Instr) : Prop :=
  i.wellFormed = true ∧ Sys2Proof.wordWellFormed (Sys2Proof.encode i) = true ∧ Sys2Proof.decode (Sys2Proof.encode i) = .ok i

theorem Sys2Proof.Laws.RoundTrip.bitsof : Sys2Proof.Laws.RoundTrip.Statement .bitsof := ⟨rfl, by decide, by decide⟩
theorem Sys2Proof.Laws.RoundTrip.byteof : Sys2Proof.Laws.RoundTrip.Statement .byteof := ⟨rfl, by decide, by decide⟩
theorem Sys2Proof.Laws.RoundTrip.wrlsb : Sys2Proof.Laws.RoundTrip.Statement .wrlsb := ⟨rfl, by decide, by decide⟩
theorem Sys2Proof.Laws.RoundTrip.rdlsb : Sys2Proof.Laws.RoundTrip.Statement .rdlsb := ⟨rfl, by decide, by decide⟩
theorem Sys2Proof.Laws.RoundTrip.embed : Sys2Proof.Laws.RoundTrip.Statement .embed := ⟨rfl, by decide, by decide⟩
theorem Sys2Proof.Laws.RoundTrip.decode : Sys2Proof.Laws.RoundTrip.Statement .decode := ⟨rfl, by decide, by decide⟩
end

