-- ==== Sys2Proof/Tests/Slice0.lean ====
section
/-! SUPPORT. Tests from the spec's own vectors (95_test_vectors), the well-formedness smoke tests, and a witness for the hypotheses
of every obligation that has some. Every expected value stands in the spec's text. -/

namespace Sys2Proof.Tests

open Sys2Proof.Machine

/-! ## Small states -/

/-- The parameters of the vectors (95_test_vectors: BUF_DEPTH at least 64, MIN_DEPTH at least 16, MOUT_DEPTH at least 4). -/
def cfg : Params := { bufDepth := 64, minDepth := 16, moutDepth := 4, m0 := 0x73, m1 := 0x74, m2 := 0x67, unit := 0 }

/-- A block out of reset with those parameters. -/
def tiny : State := { State.reset with cfg := cfg }

def cells (bs : List Byte) : Memory := (List.range bs.length).zip bs

/-- SRC and MIN filled by the host, with their lengths. -/
def loaded (src msg : List Byte) : State :=
  { tiny with
    src := cells src, min := cells msg
    bufLen := BitVec.ofNat 32 src.length, msgInLen := BitVec.ofNat 32 msg.length }

/-- DST of V-L6: MARKER and the terminator, one bit a sample. -/
def vL6 : List Byte :=
  [0, 1, 1, 1, 0, 0, 1, 1] ++ [0, 1, 1, 1, 0, 1, 0, 0] ++ [0, 1, 1, 0, 0, 1, 1, 1] ++ [0, 0, 0, 0, 0, 0, 0, 0]

/-- DST of V-S1: "stg", "hi" and the terminator. -/
def vS1 : List Byte :=
  [0, 1, 1, 1, 0, 0, 1, 1] ++ [0, 1, 1, 1, 0, 1, 0, 0] ++ [0, 1, 1, 0, 0, 1, 1, 1]
    ++ [0, 1, 1, 0, 1, 0, 0, 0] ++ [0, 1, 1, 0, 1, 0, 0, 1] ++ [0, 0, 0, 0, 0, 0, 0, 0]

/-- SRC of V-D7: "xstgA" and the terminator. -/
def vD7 : List Byte :=
  [0, 1, 1, 1, 1, 0, 0, 0] ++ [0, 1, 1, 1, 0, 0, 1, 1] ++ [0, 1, 1, 1, 0, 1, 0, 0] ++ [0, 1, 1, 0, 0, 1, 1, 1]
    ++ [0, 1, 0, 0, 0, 0, 0, 1] ++ [0, 0, 0, 0, 0, 0, 0, 0]

def zeros (n : Nat) : List Byte := List.replicate n 0x00

/-- What a command leaves. -/
def after (i : Instr) (s : State) : State :=
  match exec i s with
  | .next t => t
  | .fault _ => s
  | .refused _ => s

theorem exec_after (i : Instr) (s : State) : exec i s = .next (after i s) := by cases i <;> rfl

/-- An idle block with one pending input. -/
def idleWith (e : Event) : State := { tiny with inbox := [e] }

/-- A block performing BITSOF, with one slot left for the host. -/
def job : Job :=
  { stage := .prim .bitsof, work := (Work.free 0 0).start, n := 0, l := 0, disturbed := false, draw := 0, slots := 1 }

def busyWith (q : List Event) : State := { tiny with engine := .running job, inbox := q }

/-- EMBED of the empty message about to write its last DST cell; the host has written an input if `d`. -/
def lastWrite (d : Bool) : Job :=
  { job with
    stage := .write, n := 32, l := 0, disturbed := d
    work := { (Work.free 0 0).start with scan := .terminated, i := 31 } }

def embedding (d : Bool) : State :=
  { loaded (zeros 32) [] with engine := .running (lastWrite d), dst := [(32, 0xAA)], result := 7 }

/-! ## Decoding, from the encoding of 30_encoding R70 and R71 -/

theorem test_decode_bitsof : decode 0b00000000000000000000000000000001 = .ok .bitsof := by decide
theorem test_decode_byteof : decode 0b00000000000000000000000000000010 = .ok .byteof := by decide
theorem test_decode_wrlsb : decode 0b00000000000000000000000000000011 = .ok .wrlsb := by decide
theorem test_decode_rdlsb : decode 0b00000000000000000000000000000100 = .ok .rdlsb := by decide
theorem test_decode_embed : decode 0b00000000000000000000000000001000 = .ok .embed := by decide
theorem test_decode_decode : decode 0b00000000000000000000000000001001 = .ok .decode := by decide
theorem test_decode_rsvd_bit4 : decode 0x00000018 = .error .reservedBits := by decide
theorem test_decode_rsvd_all : decode 0xFFFFFFF1 = .error .reservedBits := by decide
theorem test_decode_opcode5 : decode 0x00000005 = .error .undefinedOpcode := by decide
theorem test_decodeTableWord : decodeTableWord 32 9 = some .decode ∧ decodeTableWord 32 0x19 = none := by decide

/-! ## Well-formedness: each check refuses an ill-formed term -/

theorem smoke_rsvd : wordWellFormed 0x00000018 = false := by decide
theorem smoke_opcode : wordWellFormed 0x0000000A = false := by decide
theorem smoke_marker_length : markerWellFormed [0x73, 0x74] = false := by decide
theorem smoke_marker_nul : markerWellFormed [0x73, 0x00, 0x67] = false := by decide
theorem smoke_marker_ascii : markerWellFormed [0x73, 0x80, 0x67] = false := by decide
theorem smoke_moutDepth : Params.wellFormed { cfg with moutDepth := 3 } = false := by decide
theorem smoke_bufDepth : Params.wellFormed { cfg with bufDepth := 2 ^ 32, moutDepth := 2 ^ 32 } = false := by decide
theorem smoke_minDepth : Params.wellFormed { cfg with minDepth := 2 ^ 32 } = false := by decide
theorem smoke_accepts : cfg.wellFormed = true ∧ wordWellFormed 0x00000008 = true ∧ Instr.embed.wellFormed = true := by decide

/-! ## Packer vectors (V-P1 to V-P4) -/

theorem test_bitsof : (after .bitsof { tiny with opa := 0xFFFFFF73, opb := 0xFFFFFFFF }).result = 0x000000CE := by decide
theorem test_bitsof_status : (after .bitsof { tiny with opa := 0x00000001 }).statusWord = 0x00000002 := by decide
theorem test_byteof : (after .byteof { tiny with opa := 0x000000CE }).result = 0x00000073 := by decide
theorem test_byteof_high : (after .byteof { tiny with opa := 0x00000101 }).result = 0x00000080 := by decide
theorem test_wrlsb_clear : (after .wrlsb { tiny with opa := 0x12345673, opb := 0xFFFFFFFE }).result = 0x00000072 := by decide
theorem test_wrlsb_set : (after .wrlsb { tiny with opa := 0x00000072, opb := 0x00000001 }).result = 0x00000073 := by decide
theorem test_rdlsb_one : (after .rdlsb { tiny with opa := 0x000000FF }).result = 0x00000001 := by decide
theorem test_rdlsb_high : (after .rdlsb { tiny with opa := 0x00000100 }).result = 0x00000000 := by decide

/-! ## Codec vectors -/

/-- V-L6: STATUS and every DST cell. -/
theorem test_embed_empty : (after .embed (loaded (zeros 32) [])).statusWord = 0x00000202
    ∧ (after .embed (loaded (zeros 32) [])).dst = cells vL6 := by decide +kernel

/-- V-E14: the duplicate check comes before the capacity check. -/
theorem test_embed_duplicate : (after .embed { loaded vS1 [] with msgInLen := 10 }).statusWord = 0x00000622 := by decide +kernel

/-- V-D1: "hi". -/
theorem test_decode_hi : (after .decode (loaded vS1 [])).statusWord = 0x00000602
    ∧ (after .decode (loaded vS1 [])).msgOutLen = 2 ∧ (after .decode (loaded vS1 [])).mout = cells [0x68, 0x69] := by
  decide +kernel

/-- V-D7: the marker counts only as the first three bytes. -/
theorem test_decode_strict : (after .decode (loaded vD7 [])).statusWord = 0x00000232 := by decide +kernel

/-! ## Registers (V-R2) -/

theorem test_capacity : State.regWord { tiny with bufLen := 0xFFFFFFFF } 0x14 = 0x1FFFFFFF
    ∧ State.regWord { tiny with bufLen := 47 } 0x14 = 0x00000005 := by decide
theorem test_reserved : tiny.regWord 0x28 = 0 ∧ tiny.regWord 0x02 = 0 ∧ tiny.regWord 0x24 = 0x00677473 := by decide

/-! ## Witnesses: states that meet the hypotheses of the obligations, each clause on its own -/

theorem tiny_inv : tiny.Inv :=
  ⟨by decide, fun sp => by cases sp <;> exact ⟨List.Pairwise.nil, fun p hp => by cases hp⟩, fun _ => ⟨rfl, rfl, rfl, rfl, rfl⟩,
    by decide, by decide⟩

theorem busy_inv : (busyWith [.rd 0x04]).Inv :=
  ⟨by decide, fun sp => by cases sp <;> exact ⟨List.Pairwise.nil, fun p hp => by cases hp⟩, ⟨rfl, trivial⟩, by decide, by decide⟩

/-- No frame in SRC, from the scan's classification. -/
theorem noFrame_of {s : State} (h : (match decodeResult s.cfg s.sample s.n with | .success _ => false | _ => true) = true) :
    ¬ s.holdsFrame := by
  rintro ⟨msg, hm⟩
  rw [hm] at h
  cases h

theorem witness_ResetEventSetsEverything_idle :
    (idleWith .reset).inbox = .reset :: [] ∧ (idleWith .reset).engineMoves = none
      ∧ (idleWith .reset).cfg.marker = [0x73, 0x74, 0x67] := ⟨rfl, rfl, rfl⟩
theorem witness_ResetEventSetsEverything_busy :
    (busyWith [.reset]).inbox = .reset :: [] ∧ (busyWith [.reset]).engineMoves = none ∧ (busyWith [.reset]).busy = true :=
  ⟨rfl, rfl, rfl⟩

theorem witness_DecodeExactlyEncodedWords : Instr.decode.wellFormed = true := rfl

theorem witness_IllegalWordFinishesAtOnce_rsvd :
    (idleWith (.wr 0x00 0x10)).busy = false ∧ (idleWith (.wr 0x00 0x10)).inbox = .wr 0x00 0x10 :: []
      ∧ (0x10 : Word).toNat / 16 ≠ 0 := ⟨rfl, rfl, by decide⟩
theorem witness_IllegalWordFinishesAtOnce_opcode :
    (idleWith (.wr 0x00 0x0F)).busy = false ∧ (idleWith (.wr 0x00 0x0F)).inbox = .wr 0x00 0x0F :: []
      ∧ (0x0F : Word).toNat % 16 ∈ [0x0, 0x5, 0x6, 0x7, 0xA, 0xB, 0xC, 0xD, 0xE, 0xF] := ⟨rfl, rfl, by decide⟩

theorem witness_StepRunsAcceptedCommand :
    (idleWith (.wr 0x00 0x09)).busy = false ∧ (idleWith (.wr 0x00 0x09)).form = .atomic
      ∧ (idleWith (.wr 0x00 0x09)).inbox = .wr 0x00 0x09 :: [] ∧ decode 0x09 = .ok .decode := ⟨rfl, rfl, rfl, by decide⟩

theorem witness_FetchWordRunsNext : decodeTableWord 32 8 = some .embed := by decide

theorem witness_AcceptanceSetsBusy :
    State.busy { idleWith (.wr 0x00 0x08) with form := .stepped } = false ∧ decode 0x08 = .ok .embed
      ∧ State.inbox { idleWith (.wr 0x00 0x08) with form := .stepped } = .wr 0x00 0x08 :: [] := ⟨rfl, by decide, rfl⟩

theorem witness_CommandWhileBusyIgnored :
    (busyWith [.wr 0x00 0x08]).engine = .running job ∧ job.slots ≠ 0 ∧ (busyWith [.wr 0x00 0x08]).inbox = .wr 0x00 0x08 :: [] :=
  ⟨rfl, by decide, rfl⟩

theorem witness_StatusWordLayout : 31 < 32 ∧ 4 ≤ 7 ∧ 7 < 8 ∧ 8 ≤ 9 ∧ 9 < 10 := by decide
theorem witness_GroupByteBits : 7 < 8 := by decide
theorem witness_CommandWhileBusyIgnored_last : (busyWith [.wrLast 0x00]).inbox = .wrLast 0x00 :: [] := rfl
theorem witness_BitsOfMsbFirst : ([0x73] : List Byte)[0]? = some 0x73 ∧ 7 < 8 := by decide
theorem witness_ByteOfEightBitsOnly : ([true] : List Bool).length ≠ 8 := by decide
theorem witness_PrimitiveLaws : ([false, true, true, true, false, false, true, true] : List Bool).length = 8 := rfl
theorem witness_SerialFormsAgree : ([true, true, true, true, true, true, true, false] : List Bool).length = 8 := rfl

theorem witness_FrameBitPlacement :
    (frame cfg [0x68])[40 / 8]? = none ∧ (frame cfg [0x68])[39 / 8]? = some 0x00
      ∧ exec .embed (loaded (zeros 48) [0x68, 0x69]) = .next (after .embed (loaded (zeros 48) [0x68, 0x69]))
      ∧ (after .embed (loaded (zeros 48) [0x68, 0x69])).status.err = 0
      ∧ (frame cfg (State.message (loaded (zeros 48) [0x68, 0x69]) 2))[47 / 8]? = some 0x00 :=
  ⟨by decide, by decide, exec_after _ _, by decide +kernel, by decide +kernel⟩

theorem witness_ScanStopsAtFirstNul : ∀ i, i < 8 * (8 / 8) → (fun _ => 0x00 : Nat → Byte) i = (fun _ => 0x00 : Nat → Byte) i :=
  fun _ _ => rfl

theorem witness_ClassifierFourCases : hasMarker cfg [0x78, 0x73, 0x74, 0x67, 0x41] = false
    ∧ hasMarker cfg [0x73, 0x74, 0x67] = true ∧ ([0x73, 0x74, 0x67, 0x68] : List Byte) = cfg.m0 :: cfg.m1 :: cfg.m2 :: [0x68] := by
  decide

theorem witness_DecodeRecoversMessage :
    (loaded vL6 []).decodeArgsOk ∧ 3 ≤ 3 ∧ 3 < (loaded vL6 []).bufLen.toNat / 8 ∧ (loaded vL6 []).markerInSrc
      ∧ groupByte (loaded vL6 []).sample 3 = 0x00 ∧ (∀ k, k < 3 → groupByte (loaded vL6 []).sample k ≠ 0x00)
      ∧ (loaded vL6 []).cfg.wellFormed = true :=
  ⟨by unfold State.decodeArgsOk; decide, by decide, by decide, ⟨by decide +kernel, by decide +kernel, by decide +kernel⟩,
    by decide +kernel, by decide +kernel, by decide⟩

theorem witness_DecodeNoMessage_terminated :
    (loaded vD7 []).decodeArgsOk ∧ 5 ≤ (loaded vD7 []).bufLen.toNat / 8
      ∧ (∀ k, k < 5 → groupByte (loaded vD7 []).sample k ≠ 0x00) ∧ ¬ (loaded vD7 []).markerInSrc
      ∧ 5 < (loaded vD7 []).bufLen.toNat / 8 ∧ groupByte (loaded vD7 []).sample 5 = 0x00 :=
  ⟨by unfold State.decodeArgsOk; decide, by decide, by decide +kernel, by unfold State.markerInSrc; decide +kernel, by decide,
    by decide +kernel⟩
theorem witness_DecodeNoMessage_first_group :
    (loaded (zeros 8) []).decodeArgsOk ∧ 0 < (loaded (zeros 8) []).bufLen.toNat / 8
      ∧ groupByte (loaded (zeros 8) []).sample 0 = 0x00 ∧ 0 < 3 :=
  ⟨by unfold State.decodeArgsOk; decide, by decide, by decide +kernel, by decide⟩
theorem witness_DecodeNoMessage_exhausted :
    (loaded (zeros 7) []).decodeArgsOk ∧ 0 = (loaded (zeros 7) []).bufLen.toNat / 8 ∧ 0 < 3
      ∧ ∀ k, k < 0 → groupByte (loaded (zeros 7) []).sample k ≠ 0x00 :=
  ⟨by unfold State.decodeArgsOk; decide, by decide, by decide, fun _ h => absurd h (Nat.not_lt_zero _)⟩

/-- V-D13. -/
theorem witness_DecodeMalformed :
    (loaded (vL6.take 31) []).decodeArgsOk ∧ 3 ≤ (loaded (vL6.take 31) []).bufLen.toNat / 8
      ∧ (loaded (vL6.take 31) []).markerInSrc
      ∧ ∀ k, k < (loaded (vL6.take 31) []).bufLen.toNat / 8 → groupByte (loaded (vL6.take 31) []).sample k ≠ 0x00 :=
  ⟨by unfold State.decodeArgsOk; decide, by decide, ⟨by decide +kernel, by decide +kernel, by decide +kernel⟩, by decide +kernel⟩

theorem witness_DecodeOutputs :
    (¬ State.decodeArgsOk { tiny with bufLen := 65 }) ∧ (loaded vS1 []).decodeArgsOk
      ∧ decodeResult cfg (loaded vS1 []).sample 48 = .success [0x68, 0x69]
      ∧ (loaded (zeros 8) []).decodeArgsOk ∧ ¬ (loaded (zeros 8) []).holdsFrame :=
  ⟨by unfold State.decodeArgsOk; decide, by unfold State.decodeArgsOk; decide, by decide +kernel,
    by unfold State.decodeArgsOk; decide, noFrame_of (by decide +kernel)⟩

theorem witness_BadArgTouchesNothing :
    State.bufLen { tiny with bufLen := 65 } = 65 ∧ cfg.bufDepth < (65 : Word).toNat ∧ cfg.minDepth < (17 : Word).toNat := by decide

theorem witness_EmbedWritesFrame :
    (loaded (zeros 48) [0x68, 0x69]).embedArgsOk ∧ ¬ (loaded (zeros 48) [0x68, 0x69]).holdsFrame
      ∧ (loaded (zeros 48) [0x68, 0x69]).msgInLen.toNat + 4 ≤ (loaded (zeros 48) [0x68, 0x69]).bufLen.toNat / 8 :=
  ⟨by unfold State.embedArgsOk; decide, noFrame_of (by decide +kernel), by decide⟩

theorem witness_EmbedAlreadyEncoded : (loaded vL6 []).embedArgsOk ∧ (loaded vL6 []).holdsFrame :=
  ⟨by unfold State.embedArgsOk; decide, [], by decide +kernel⟩

theorem witness_EmbedTooLarge :
    (loaded (zeros 47) [0x68, 0x69]).embedArgsOk ∧ ¬ (loaded (zeros 47) [0x68, 0x69]).holdsFrame
      ∧ (loaded (zeros 47) [0x68, 0x69]).bufLen.toNat / 8 < (loaded (zeros 47) [0x68, 0x69]).msgInLen.toNat + 4 :=
  ⟨by unfold State.embedArgsOk; decide, noFrame_of (by decide +kernel), by decide⟩

theorem witness_DuplicateCheckIsDecode : (loaded (zeros 8) []).embedArgsOk := by unfold State.embedArgsOk; decide

theorem witness_EmbedWritesOnlyDst : (after .embed (loaded (zeros 8) [])).status.err ≠ 0x0 := by decide +kernel

theorem witness_CapacityBoundary :
    (loaded (zeros 32) []).embedArgsOk ∧ ¬ (loaded (zeros 32) []).holdsFrame
      ∧ 8 * ((loaded (zeros 32) []).msgInLen.toNat + 4) ≤ (loaded (zeros 32) []).bufLen.toNat
      ∧ (loaded (zeros 31) []).embedArgsOk ∧ ¬ (loaded (zeros 31) []).holdsFrame
      ∧ (loaded (zeros 31) []).bufLen.toNat < 8 * ((loaded (zeros 31) []).msgInLen.toNat + 4) :=
  ⟨by unfold State.embedArgsOk; decide, noFrame_of (by decide +kernel), by decide, by unfold State.embedArgsOk; decide,
    noFrame_of (by decide +kernel), by decide⟩

theorem witness_ShortBufferTooLarge : (loaded (zeros 31) []).embedArgsOk ∧ (loaded (zeros 31) []).bufLen.toNat < 32 :=
  ⟨by unfold State.embedArgsOk; decide, by decide⟩

theorem witness_FailurePriority_illegal :
    (idleWith (.wr 0x00 0x05)).busy = false ∧ (idleWith (.wr 0x00 0x05)).inbox = .wr 0x00 0x05 :: []
      ∧ decode 0x05 = .error .undefinedOpcode := ⟨rfl, rfl, by decide⟩
theorem witness_FailurePriority_embed :
    (¬ State.embedArgsOk { tiny with bufLen := 65 }) ∧ ((loaded vL6 []).embedArgsOk ∧ (loaded vL6 []).holdsFrame)
      ∧ ((loaded (zeros 31) []).embedArgsOk ∧ ¬ (loaded (zeros 31) []).holdsFrame ∧ capacity 31 < required 0)
      ∧ ((loaded (zeros 32) []).embedArgsOk ∧ ¬ (loaded (zeros 32) []).holdsFrame ∧ required 0 ≤ capacity 32) :=
  ⟨by unfold State.embedArgsOk; decide, witness_EmbedAlreadyEncoded,
    ⟨by unfold State.embedArgsOk; decide, noFrame_of (by decide +kernel), by decide⟩,
    ⟨by unfold State.embedArgsOk; decide, noFrame_of (by decide +kernel), by decide⟩⟩
theorem witness_FailurePriority_decode :
    (¬ State.decodeArgsOk { tiny with bufLen := 65 })
      ∧ decodeResult cfg (loaded vD7 []).sample 48 = .noMessage ∧ decodeResult cfg (loaded (vL6.take 31) []).sample 31 = .malformed
      ∧ (loaded vL6 []).holdsFrame :=
  ⟨by unfold State.decodeArgsOk; decide, by decide +kernel, by decide +kernel, witness_EmbedAlreadyEncoded.2⟩

theorem witness_CodesRaisedBy : exec .decode tiny = .next (after .decode tiny) := exec_after _ _

/-- V-S1, then the copy of DST into SRC. -/
theorem witness_EmbedDecodeRoundTrip :
    cfg.wellFormed = true ∧ (loaded (zeros 48) [0x68, 0x69]).embedArgsOk ∧ ¬ (loaded (zeros 48) [0x68, 0x69]).holdsFrame
      ∧ required 2 ≤ capacity 48 ∧ (∀ k, k < 2 → (loaded (zeros 48) [0x68, 0x69]).cell .min k ≠ 0x00)
      ∧ ∀ i, i < 48 → (loaded vS1 []).cell .src i = (after .embed (loaded (zeros 48) [0x68, 0x69])).cell .dst i :=
  ⟨by decide, by unfold State.embedArgsOk; decide, noFrame_of (by decide +kernel), by decide, by decide +kernel, by decide +kernel⟩

/-- V-E9: "a", a zero byte, "b". -/
theorem witness_DecodeStopsAtFirstNulOfMessage :
    (loaded (zeros 64) [0x61, 0x00, 0x62]).embedArgsOk ∧ ¬ (loaded (zeros 64) [0x61, 0x00, 0x62]).holdsFrame
      ∧ required 3 ≤ capacity 64 ∧ 1 < (loaded (zeros 64) [0x61, 0x00, 0x62]).l
      ∧ (loaded (zeros 64) [0x61, 0x00, 0x62]).cell .min 1 = 0x00
      ∧ (∀ k, k < 1 → (loaded (zeros 64) [0x61, 0x00, 0x62]).cell .min k ≠ 0x00)
      ∧ ∀ i, i < 64 → State.cell { tiny with src := (after .embed (loaded (zeros 64) [0x61, 0x00, 0x62])).dst } .src i
          = (after .embed (loaded (zeros 64) [0x61, 0x00, 0x62])).cell .dst i :=
  ⟨by unfold State.embedArgsOk; decide, noFrame_of (by decide +kernel), by decide, by decide, by decide +kernel, by decide +kernel,
    by decide +kernel⟩

/-- V-L6, then the copy of DST into SRC. -/
theorem witness_EmptyMessageRoundTrip :
    (loaded (zeros 32) []).embedArgsOk ∧ ¬ (loaded (zeros 32) []).holdsFrame ∧ (loaded (zeros 32) []).msgInLen = 0
      ∧ 32 ≤ (loaded (zeros 32) []).bufLen.toNat
      ∧ ∀ i, i < 32 → (loaded vL6 []).cell .src i = (after .embed (loaded (zeros 32) [])).cell .dst i :=
  ⟨by unfold State.embedArgsOk; decide, noFrame_of (by decide +kernel), by decide, by decide, by decide +kernel⟩

theorem witness_EmptyMessageRoundTrip_short :
    (loaded (zeros 31) []).embedArgsOk ∧ (loaded (zeros 31) []).msgInLen = 0 ∧ (loaded (zeros 31) []).bufLen.toNat < 32 :=
  ⟨by unfold State.embedArgsOk; decide, by decide, by decide⟩

/-- V-L6, then EMBED again on the copied buffer. -/
theorem witness_SecondEmbedRejected :
    cfg.wellFormed = true ∧ exec .embed (loaded (zeros 32) []) = .next (after .embed (loaded (zeros 32) []))
      ∧ (after .embed (loaded (zeros 32) [])).status.err = 0x0 ∧ (loaded vL6 []).cfg = (loaded (zeros 32) []).cfg
      ∧ (loaded vL6 []).bufLen = (loaded (zeros 32) []).bufLen
      ∧ (∀ i, i < 32 → (loaded vL6 []).cell .src i = (after .embed (loaded (zeros 32) [])).cell .dst i)
      ∧ (loaded vL6 []).l ≤ (loaded vL6 []).cfg.minDepth :=
  ⟨by decide, exec_after _ _, by decide +kernel, rfl, by decide, by decide +kernel, by decide⟩

theorem witness_UntouchedAndTruncatedBuffers_untouched :
    (loaded vD7 []).decodeArgsOk ∧ hasMarker cfg (scan (loaded vD7 []).sample 48).2 = false :=
  ⟨by unfold State.decodeArgsOk; decide, by decide +kernel⟩

/-- MARKER, then 8 samples 0xFF. -/
theorem witness_UntouchedAndTruncatedBuffers_truncated :
    (loaded (vL6.take 24 ++ List.replicate 8 0xFF) []).decodeArgsOk
      ∧ 24 ≤ (loaded (vL6.take 24 ++ List.replicate 8 0xFF) []).bufLen.toNat
      ∧ (loaded (vL6.take 24 ++ List.replicate 8 0xFF) []).markerInSrc
      ∧ ∀ i, i < (loaded (vL6.take 24 ++ List.replicate 8 0xFF) []).bufLen.toNat → 24 ≤ i →
          ((loaded (vL6.take 24 ++ List.replicate 8 0xFF) []).cell .src i).getLsbD 0 = true :=
  ⟨by unfold State.decodeArgsOk; decide, by decide, ⟨by decide +kernel, by decide +kernel, by decide +kernel⟩, by decide +kernel⟩

theorem witness_CommandsNeverWriteInputs : exec .wrlsb tiny = .next (after .wrlsb tiny) := exec_after _ _

/-- A packer command, the last micro-step of V-L6's EMBED, and a DECODE in phase OUTPUT. -/
theorem witness_MicroStepWritesOnlyItsOutputs_prim :
    (busyWith []).engine = .running job ∧ (busyWith []).inbox = [] ∧ job.stage = .prim .bitsof := ⟨rfl, rfl, rfl⟩
theorem witness_MicroStepWritesOnlyItsOutputs_embed :
    (embedding true).engine = .running (lastWrite true) ∧ (embedding true).inbox = [] ∧ (lastWrite true).stage = .write
      ∧ (lastWrite true).disturbed = true ∧ (lastWrite true).ok (embedding true).cfg :=
  ⟨rfl, rfl, rfl, rfl, by decide, by decide, by decide, by decide, by decide⟩
theorem witness_MicroStepWritesOnlyItsOutputs_decode :
    State.engine { tiny with engine := .running { job with stage := .output } } = .running { job with stage := .output }
      ∧ State.inbox { tiny with engine := .running { job with stage := .output } } = [] := ⟨rfl, rfl⟩

/-- R185: a disturbed EMBED still finishes, leaves DST at and above n alone, and writes no RESULT. -/
theorem test_disturbed_finish : (State.engineTurn (embedding true) (lastWrite true)).status.done = true
    ∧ (State.engineTurn (embedding true) (lastWrite true)).busy = false
    ∧ (State.engineTurn (embedding true) (lastWrite true)).result = 7
    ∧ (State.engineTurn (embedding true) (lastWrite true)).cell .dst 32 = 0xAA := by decide +kernel

/-- Two blocks that agree on what DECODE reads and differ in MSG_IN_LEN and MIN. -/
theorem witness_CodecReadsOnlyItsOperands_decode :
    (loaded vL6 [0x68]).cfg = (loaded vL6 []).cfg ∧ (loaded vL6 [0x68]).bufLen = (loaded vL6 []).bufLen
      ∧ (∀ i, i < 32 → (loaded vL6 [0x68]).cell .src i = (loaded vL6 []).cell .src i)
      ∧ (loaded vL6 [0x68]).msgInLen ≠ (loaded vL6 []).msgInLen := ⟨rfl, rfl, fun _ _ => rfl, by decide⟩

/-- Two blocks that differ in OPA alone. -/
theorem witness_CodecReadsOnlyItsOperands_embed :
    State.bufLen { loaded vL6 [] with opa := 5 } = (loaded vL6 []).bufLen
      ∧ (∀ i, i < 32 → State.cell { loaded vL6 [] with opa := 5 } .src i = (loaded vL6 []).cell .src i)
      ∧ State.opa { loaded vL6 [] with opa := 5 } ≠ (loaded vL6 []).opa := ⟨rfl, fun _ _ => rfl, by decide⟩

theorem witness_OutcomeStaysUntilNextCommand :
    (idleWith (.wr 0x08 48)).busy = false
      ∧ step (idleWith (.wr 0x08 48)) = .next { idleWith (.wr 0x08 48) with inbox := [], bufLen := 48 }
      ∧ Reg.at 0x08 ≠ some .cmd ∧ (idleWith (.wr 0x08 48)).inbox = [.wr 0x08 48] := ⟨rfl, rfl, by decide, rfl⟩

theorem witness_HostRegisterAccess_read :
    (idleWith (.rd 0x24)).busy = false ∧ (idleWith (.rd 0x24)).inbox = .rd 0x24 :: [] := ⟨rfl, rfl⟩
theorem witness_HostRegisterAccess_write :
    (idleWith (.wr 0x1C 7)).busy = false ∧ (idleWith (.wr 0x1C 7)).inbox = .wr 0x1C 7 :: [] := ⟨rfl, rfl⟩

theorem witness_CapacityAndMarkerViews : cfg.marker = [0x73, 0x74, 0x67] := rfl

theorem witness_HostByteAccess_read :
    (idleWith (.rdb .mout 4)).busy = false ∧ (idleWith (.rdb .mout 4)).inbox = .rdb .mout 4 :: [] := ⟨rfl, rfl⟩
theorem witness_HostByteAccess_write :
    (idleWith (.wrb .src 63 7)).busy = false ∧ (idleWith (.wrb .src 63 7)).inbox = .wrb .src 63 7 :: [] := ⟨rfl, rfl⟩

theorem witness_BusyReads : (busyWith []).busy = true ∧ 63 < (busyWith []).cfg.bufDepth ∧ 15 < (busyWith []).cfg.minDepth := by decide

theorem witness_HostAccessWhileBusy_read : (busyWith [.rd 0x20]).engine = .running job ∧ job.slots ≠ 0
    ∧ (busyWith [.rd 0x20]).inbox = .rd 0x20 :: [] ∧ (busyWith [.rdb .dst 0]).inbox = .rdb .dst 0 :: [] := ⟨rfl, by decide, rfl, rfl⟩
theorem witness_HostAccessWhileBusy_write : (busyWith [.wr 0x18 1]).engine = .running job ∧ job.slots ≠ 0
    ∧ (busyWith [.wr 0x18 1]).inbox = .wr 0x18 1 :: [] ∧ (busyWith [.wrb .min 16 1]).inbox = .wrb .min 16 1 :: [] :=
  ⟨rfl, by decide, rfl, rfl⟩

theorem witness_HostAccessWhileBusy_ignored : (busyWith [.wr 0x28 1]).inbox = .wr 0x28 1 :: []
    ∧ (0x28 : Byte) ≠ 0x08 ∧ (0x28 : Byte) ≠ 0x0C ∧ (0x28 : Byte) ≠ 0x18 ∧ (0x28 : Byte) ≠ 0x1C := ⟨rfl, by decide⟩
theorem witness_HostAccessWhileBusy_last :
    State.outbox { busyWith [.wrLast 0x18] with outbox := [.word 5] } = [.word 5]
      ∧ ([Reading.word 5]).getLast? = some (.word 5) ∧ (busyWith [.wrLast 0x18]).inbox = .wrLast 0x18 :: []
      ∧ (busyWith [.wrbLast .src 0]).inbox = .wrbLast .src 0 :: [] ∧ (busyWith [.poll]).inbox = .poll :: [] :=
  ⟨rfl, rfl, rfl, rfl, rfl⟩

theorem witness_CopyProgramCopies :
    State.busy { tiny with inbox := hostCopy 64 } = false ∧ 64 ≤ cfg.bufDepth
      ∧ State.inbox { tiny with inbox := hostCopy 64 } = hostCopy 64 := ⟨rfl, by decide, rfl⟩

theorem witness_EngineRefinesAtomic : (loaded vL6 []).busy = false ∧ (loaded vL6 []).inbox = [] := ⟨rfl, rfl⟩

theorem witness_WellBehavedHostCannotTellForms :
    State.busy { tiny with inbox := [.rd 0x04, .poll, .wr 0x00 8, .wrb .src 64 1] } = false
      ∧ ∀ e ∈ [Event.rd 0x04, .poll, .wr 0x00 8, .wrb .src 64 1], e.quiet cfg = true := ⟨rfl, by decide⟩

theorem witness_EveryCommandEnds : (busyWith [.rd 0x04]).Inv ∧ (busyWith [.rd 0x04]).busy = true := ⟨busy_inv, rfl⟩

theorem witness_StepKeepsInvariant : tiny.Inv ∧ step tiny = .next tiny := ⟨tiny_inv, rfl⟩
theorem witness_StepKeepsInvariant_busy :
    (busyWith [.rd 0x04]).Inv ∧ ∃ t, step (busyWith [.rd 0x04]) = .next t := ⟨busy_inv, _, rfl⟩

theorem witness_ConfigurationIsFixed :
    step (idleWith (.wr 0x08 48)) = .next { idleWith (.wr 0x08 48) with inbox := [], bufLen := 48 } := rfl

theorem witness_InstancesShareNothing :
    (System.mk [tiny, tiny] [1]).turns = 1 :: []
      ∧ (System.mk [tiny, tiny] [1]).step = .next (System.mk [tiny, tiny] [])
      ∧ (System.mk [tiny, tiny] [1]).blocks[1]? = some tiny := ⟨rfl, rfl, rfl⟩

end Sys2Proof.Tests
end

section
/-! PROOFS. No step writes the configuration: one lemma per operation a step is made of, then the step itself. -/

namespace Sys2Proof.Machine

/-! ## The commands -/

@[simp] theorem State.decodeDone_cfg (s : State) (d : Nat) : (s.decodeDone d).cfg = s.cfg := by
  obtain ⟨-, h⟩ | ⟨-, ⟨msg, -, h⟩ | ⟨-, -, h⟩ | ⟨-, -, -, h⟩⟩ := s.decodeDone_cases d <;> simp [h]

@[simp] theorem State.embedDone_cfg (s : State) (d : Nat) : (s.embedDone d).cfg = s.cfg := by
  obtain ⟨-, h⟩ | ⟨-, -, ⟨-, h⟩ | ⟨-, -, h⟩ | ⟨-, -, h⟩⟩ := s.embedDone_cases d <;> simp [h]

/-- A command in the atomic form. -/
theorem exec_cfg {i : Instr} {s t : State} (h : exec i s = .next t) : t.cfg = s.cfg := by
  cases i with
  | bitsof => cases h; exact State.packerDone_cfg ..
  | byteof => cases h; exact State.packerDone_cfg ..
  | wrlsb => cases h; exact State.packerDone_cfg ..
  | rdlsb => cases h; exact State.packerDone_cfg ..
  | embed => cases h; simp
  | decode => cases h; simp

@[simp] theorem State.begin_cfg (s : State) (i : Instr) : (s.begin i).cfg = s.cfg := rfl

/-! ## The engine -/

@[simp] theorem State.drawSlots_cfg (s : State) : s.drawSlots.cfg = s.cfg := by
  rw [s.drawSlots_eq]

@[simp] theorem State.engineTurn_cfg (s : State) (job : Job) : (s.engineTurn job).cfg = s.cfg :=
  (State.drawSlots_cfg _).trans (EngineKeeps.engineStep s job).cfg

/-! ## The host's inputs -/

@[simp] theorem State.hostRead_cfg (s : State) (off : Byte) : (s.hostRead off).cfg = s.cfg := rfl
@[simp] theorem State.hostReadByte_cfg (s : State) (sp : Space) (a : Nat) : (s.hostReadByte sp a).cfg = s.cfg := rfl
@[simp] theorem State.resetEvent_cfg (s : State) : s.resetEvent.cfg = s.cfg := rfl

@[simp] theorem State.hostWriteByte_cfg (s : State) (sp : Space) (a : Nat) (v : Byte) :
    (s.hostWriteByte sp a v).cfg = s.cfg := by
  cases sp with
  | src | min => simp only [State.hostWriteByte]; split <;> simp
  | dst | mout => rfl

/-- An accepted command word: illegal, or a command in either form. -/
theorem State.accept_cfg {s t : State} {w : Word} (h : s.accept w = .next t) : t.cfg = s.cfg := by
  unfold State.accept at h
  split at h
  · cases h; simp
  · split at h
    · exact exec_cfg h
    · cases h; simp

/-- A register write: a command issue, a register stored whole, or nothing. -/
theorem State.hostWrite_cfg {s t : State} {off : Byte} {v : Word} (h : s.hostWrite off v = .next t) :
    t.cfg = s.cfg := by
  unfold State.hostWrite at h
  split at h
  · split at h
    · cases h; rfl
    · exact State.accept_cfg h
  all_goals cases h; simp

/-- Any one input, a reset among them. -/
theorem State.perform_cfg {s t : State} {e : Event} (h : s.perform e = .next t) : t.cfg = s.cfg := by
  cases e with
  | wr off v => exact State.hostWrite_cfg h
  | rd off => cases h; simp
  | wrb sp a v => cases h; simp
  | rdb sp a => cases h; simp
  | poll => cases h; split <;> simp
  | wrLast off => exact State.hostWrite_cfg h
  | wrbLast sp a => cases h; simp
  | reset => cases h; simp

/-! ## The step -/

theorem step_cfg {s t : State} (h : step s = .next t) : t.cfg = s.cfg := by
  obtain ⟨-, -, hs⟩ | ⟨job, -, -, hs⟩ | ⟨e, rest, -, -, hs⟩ := step_cases s <;> rw [hs] at h
  · cases h; rfl
  · cases h; exact s.engineTurn_cfg job
  · calc t.cfg = (s.useSlot.setInbox rest).cfg := State.perform_cfg h
      _ = s.cfg := by simp

/-- Settles O58, by the three things a step can do: nothing, a micro-step of the engine, or one input. -/
theorem configurationIsFixed : Obligations.ConfigurationIsFixed :=
  fun _ _ h => step_cfg h

end Sys2Proof.Machine
end

section
/-! PROOFS. What an access of the host that is neither an acceptance nor a reset leaves alone (10_state R43, 70_reset R185). -/

namespace Sys2Proof.Machine

/-- The engine is where it was: only the slots left for the host and the mark of a disturbance may differ. -/
inductive Engine.SameJob : Engine → Engine → Prop where
  | idle (d : Nat) : SameJob (.idle d) (.idle d)
  | running (job : Job) (b : Bool) (k : Nat) : SameJob (.running job) (.running { job with disturbed := b, slots := k })

theorem Engine.SameJob.refl (e : Engine) : e.SameJob e := by
  cases e with
  | idle d => exact .idle d
  | running job => exact .running job job.disturbed job.slots

theorem Engine.SameJob.trans {a b c : Engine} (h : a.SameJob b) (k : b.SameJob c) : a.SameJob c := by
  cases h with
  | idle d => exact k
  | running job => cases k; exact .running job _ _

theorem Engine.SameJob.draw_eq {e e' : Engine} (h : e.SameJob e') : e'.draw = e.draw := by
  cases h <;> rfl

/-- What no access of the host but an acceptance or a reset writes: the configuration and every output, the engine but for its slots
and the mark of a disturbance. Draws may be taken. -/
structure HostKeeps (s t : State) : Prop where
  cfg       : t.cfg = s.cfg
  msgOutLen : t.msgOutLen = s.msgOutLen
  result    : t.result = s.result
  status    : t.status = s.status
  dst       : t.dst = s.dst
  mout      : t.mout = s.mout
  epoch     : t.epoch = s.epoch
  draws     : s.draws ≤ t.draws
  engine    : s.engine.SameJob t.engine

theorem HostKeeps.refl (s : State) : HostKeeps s s :=
  ⟨rfl, rfl, rfl, rfl, rfl, rfl, rfl, Nat.le_refl _, .refl _⟩

theorem HostKeeps.trans {a b c : State} (h : HostKeeps a b) (k : HostKeeps b c) : HostKeeps a c :=
  ⟨k.1.trans h.1, k.2.trans h.2, k.3.trans h.3, k.4.trans h.4, k.5.trans h.5, k.6.trans h.6, k.7.trans h.7, h.8.trans k.8,
    h.9.trans k.9⟩

theorem HostKeeps.setInbox (s : State) (q : List Event) : HostKeeps s (s.setInbox q) :=
  ⟨rfl, rfl, rfl, rfl, rfl, rfl, rfl, Nat.le_refl _, .refl _⟩

theorem HostKeeps.deliver (s : State) (r : Reading) : HostKeeps s (s.deliver r) := by
  refine ⟨rfl, rfl, rfl, rfl, rfl, rfl, rfl, ?_, .refl _⟩
  unfold State.deliver
  dsimp only
  split <;> omega

theorem HostKeeps.useSlot (s : State) : HostKeeps s s.useSlot := by
  refine ⟨by simp, by simp, by simp, by simp, by simp, by simp, by simp, by simp, ?_⟩
  unfold State.useSlot
  split
  · exact .refl _
  · next hj => rw [hj]; exact .running ..

theorem HostKeeps.disturb (s : State) : HostKeeps s s.disturb := by
  refine ⟨by simp, by simp, by simp, by simp, by simp, by simp, by simp, by simp, ?_⟩
  unfold State.disturb
  split
  · exact .refl _
  · next hj => rw [hj]; exact .running ..

theorem HostKeeps.drawSlots (s : State) : HostKeeps s s.drawSlots := by
  unfold State.drawSlots
  split
  · exact .refl s
  · next hj => exact ⟨rfl, rfl, rfl, rfl, rfl, rfl, rfl, Nat.le_refl _, by rw [hj]; exact .running ..⟩

theorem HostKeeps.hostWriteByte (s : State) (sp : Space) (a : Nat) (v : Byte) : HostKeeps s (s.hostWriteByte sp a v) := by
  have cell : sp = .src ∨ sp = .min → HostKeeps s (s.setCell sp a v) := by
    rintro (rfl | rfl) <;> exact ⟨rfl, rfl, rfl, rfl, rfl, rfl, rfl, Nat.le_refl _, .refl _⟩
  cases sp with
  | src => simp only [State.hostWriteByte]; split; exacts [(cell (.inl rfl)).trans (.disturb _), .refl s]
  | min => simp only [State.hostWriteByte]; split; exacts [(cell (.inr rfl)).trans (.disturb _), .refl s]
  | dst => exact .refl s
  | mout => exact .refl s

/-- A register write is an acceptance, or keeps the outputs and the memories (10_state R43). -/
theorem State.hostWrite_cases (s : State) (off : Byte) (v : Word) :
    (Reg.at off = some .cmd ∧ s.busy = false ∧ s.hostWrite off v = s.accept v)
    ∨ ∃ t, s.hostWrite off v = .next t ∧ HostKeeps s t ∧ ∀ sp, t.mem sp = s.mem sp := by
  have keep : ∀ r : State, HostKeeps s r → (∀ sp, r.mem sp = s.mem sp) →
      HostKeeps s r.disturb ∧ ∀ sp, r.disturb.mem sp = s.mem sp := fun r hr hm =>
    ⟨hr.trans (.disturb r), fun sp => (by cases sp <;> simp : r.disturb.mem sp = r.mem sp).trans (hm sp)⟩
  have same : ∀ sp, s.mem sp = s.mem sp := fun _ => rfl
  unfold State.hostWrite
  cases Reg.at off with
  | none => exact .inr ⟨s, rfl, .refl s, same⟩
  | some r =>
    cases r with
    | cmd =>
      cases hb : s.busy
      · exact .inl ⟨rfl, rfl, rfl⟩
      · exact .inr ⟨s, rfl, .refl s, same⟩
    | bufLen => exact .inr ⟨_, rfl, keep { s with bufLen := v } { HostKeeps.refl s with } same⟩
    | msgInLen => exact .inr ⟨_, rfl, keep { s with msgInLen := v } { HostKeeps.refl s with } same⟩
    | opa => exact .inr ⟨_, rfl, keep { s with opa := v } { HostKeeps.refl s with } same⟩
    | opb => exact .inr ⟨_, rfl, keep { s with opb := v } { HostKeeps.refl s with } same⟩
    | status | msgOutLen | capacity | result | marker => exact .inr ⟨s, rfl, .refl s, same⟩

end Sys2Proof.Machine
end

section
/-! PROOFS. The invariant: what an engine's micro-step, a command, a host access and a reset each do to it, then the step. -/

namespace Sys2Proof.Machine

/-! ## Memories canonical and within their depths -/

theorem State.memoriesOk_congr {s t : State} (h : s.memoriesOk) (hc : t.cfg = s.cfg) (hm : ∀ sp, t.mem sp = s.mem sp) :
    t.memoriesOk := fun sp => by rw [hm sp, hc]; exact h sp

theorem State.memoriesOk_of_nil {s : State} (h : ∀ sp, s.mem sp = []) : s.memoriesOk :=
  fun sp => by simp [h sp, Memory.wf]

theorem State.memoriesOk_setCell {s : State} (h : s.memoriesOk) {sp : Space} {a : Nat} (ha : a < s.cfg.depth sp) (v : Byte) :
    (s.setCell sp a v).memoriesOk := by
  refine fun sp' => ⟨State.wf_setCell (fun sp => (h sp).1) sp a v sp', fun p hp => ?_⟩
  rw [State.setCell_cfg]
  obtain ⟨rfl, hpa⟩ | hp := State.mem_setCell hp
  · rwa [hpa]
  · exact (h sp').2 p hp

theorem State.memoriesOk_fill {s : State} (h : s.memoriesOk) {sp : Space} {n : Nat} (hn : n ≤ s.cfg.depth sp) (f : Nat → Byte) :
    (s.fill sp f n).memoriesOk := by
  refine fun sp' => ⟨State.wf_fill (fun sp => (h sp).1) sp f n sp', fun p hp => ?_⟩
  rw [State.fill_cfg]
  obtain ⟨rfl, hpn⟩ | hp := State.mem_fill hp
  · exact Nat.lt_of_lt_of_le hpn hn
  · exact (h sp').2 p hp

theorem State.memoriesOk_spoil {s : State} (h : s.memoriesOk) {sp : Space} {n : Nat} (hn : n ≤ s.cfg.depth sp) (d : Nat) :
    (s.spoil d sp n).memoriesOk := State.memoriesOk_fill h hn _

theorem State.memoriesOk_decodeFailed {s : State} (h : s.memoriesOk) (d c : Nat) : (s.decodeFailed d c).memoriesOk :=
  State.memoriesOk_spoil (sp := .mout) h (Nat.min_le_right _ _) d

/-- What a disturbed command spoils lies within the depths, whatever its length was (70_reset R185). -/
theorem State.memoriesOk_spoilOutputs {s : State} (h : s.memoriesOk) (job : Job) : (s.spoilOutputs job).memoriesOk := by
  unfold State.spoilOutputs
  split
  · exact h
  · exact State.memoriesOk_spoil (sp := .dst) h (Nat.min_le_right _ _) _
  · exact State.memoriesOk_spoil (sp := .dst) h (Nat.min_le_right _ _) _
  · exact State.memoriesOk_spoil (sp := .dst) h (Nat.min_le_right _ _) _
  · exact State.memoriesOk_spoil (sp := .mout) h (Nat.le_refl _) _
  · exact State.memoriesOk_spoil (sp := .mout) h (Nat.le_refl _) _

theorem State.memoriesOk_finishJob {s : State} (h : s.memoriesOk) (job : Job) (c : Code) (st : Option ScanState) (p : Bool) :
    (s.finishJob job c st p).memoriesOk := by
  unfold State.finishJob
  split
  · exact State.memoriesOk_spoilOutputs h job
  · exact h

/-- MOUT has room for the message of every frame the buffer can hold (00_scope R9, 41_frame_codec R139). -/
theorem Params.mout_room {c : Params} (h : c.wellFormed = true) : c.bufDepth / 8 - 4 ≤ c.moutDepth := by
  simp only [Params.wellFormed, Bool.and_eq_true, decide_eq_true_eq] at h
  obtain ⟨⟨-, hmout⟩, -⟩ := h
  omega

/-! ## The part of the invariant that does not speak of the engine -/

/-- The invariant but for the engine. -/
structure State.Sound (s : State) : Prop where
  params   : s.cfg.wellFormed = true
  memories : s.memoriesOk
  epoch    : s.epoch < s.draws

theorem State.Inv.sound {s : State} (h : s.Inv) : s.Sound := by
  obtain ⟨hc, hm, -, he, -⟩ := h
  exact ⟨hc, hm, he⟩

theorem State.Sound.nextDraw {s : State} (h : s.Sound) : s.nextDraw.Sound :=
  ⟨h.params, h.memories, Nat.lt_succ_of_lt h.epoch⟩

/-- A command that has ended, however it ended. -/
theorem State.Sound.inv_of_done {s : State} (h : s.Sound) {d : Nat} (he : s.engine = .idle d) (hdone : s.status.done = true)
    (hd : d < s.draws) : s.Inv := by
  refine ⟨h.params, h.memories, ?_, h.epoch, by rwa [he]⟩
  simp [State.engineOk, he, hdone]

theorem State.Sound.inv_finish {s : State} (h : s.Sound) {d : Nat} (hd : d < s.draws) (c : Code) (st : Option ScanState)
    (p : Bool) : (s.finish d c st p).Inv :=
  State.Sound.inv_of_done (s := s.finish d c st p) ⟨h.params, h.memories, h.epoch⟩ rfl rfl hd

/-! ## A command in the atomic form -/

theorem State.Sound.inv_packerDone {s : State} (h : s.Sound) (r : Word) : (s.packerDone r).Inv :=
  State.Sound.inv_finish (s := { s.nextDraw with result := r }) ⟨h.params, h.memories, h.nextDraw.epoch⟩ (Nat.lt_succ_self _) ..

theorem State.Sound.inv_embedDone {s : State} (h : s.Sound) {d : Nat} (hd : d < s.draws) : (s.embedDone d).Inv := by
  obtain ⟨-, he⟩ | ⟨hn, -, ⟨-, he⟩ | ⟨-, -, he⟩ | ⟨-, -, he⟩⟩ := s.embedDone_cases d <;> rw [he]
  · exact h.inv_finish hd ..
  · exact h.inv_finish hd ..
  · exact h.inv_finish hd ..
  · have hf := State.memoriesOk_fill (sp := .dst) h.memories hn (embedSample s.sample (bitsOf (frame s.cfg (s.message s.l))))
    exact State.Sound.inv_finish ⟨by simpa using h.params, hf, by simpa using h.epoch⟩ (by simpa using hd) ..

/-- The message of a frame is four bytes shorter than the buffer's complete groups (41_frame_codec R139). -/
theorem length_le_of_decodeResult {c : Params} {buf : Nat → Byte} {n : Nat} {msg : List Byte}
    (h : decodeResult c buf n = .success msg) : msg.length ≤ n / 8 - 4 := by
  obtain ⟨ht, -, rfl⟩ := (decodeResult_success_iff ..).1 h
  obtain ⟨len, hlen, hs, -⟩ | ⟨hs, -⟩ := scan_cases buf n <;> rw [hs] at ht ⊢
  · rw [List.length_drop, length_groupBytes]
    unfold capacity at hlen
    omega
  · cases ht

theorem State.Sound.inv_decodeDone {s : State} (h : s.Sound) {d : Nat} (hd : d < s.draws) : (s.decodeDone d).Inv := by
  have failed : (s.decodeFailed d (capacity s.n)).Sound :=
    ⟨by simpa using h.params, State.memoriesOk_decodeFailed h.memories d _, by simpa using h.epoch⟩
  obtain ⟨-, he⟩ | ⟨hn, ⟨msg, hmsg, he⟩ | ⟨-, -, he⟩ | ⟨-, -, -, he⟩⟩ := s.decodeDone_cases d <;> rw [he]
  · exact h.inv_finish hd ..
  · have hlen : msg.length ≤ s.cfg.depth .mout :=
      calc msg.length ≤ s.n / 8 - 4 := length_le_of_decodeResult hmsg
        _ ≤ s.cfg.bufDepth / 8 - 4 := Nat.sub_le_sub_right (Nat.div_le_div_right hn) 4
        _ ≤ s.cfg.depth .mout := Params.mout_room h.params
    have hf := State.memoriesOk_fill h.memories hlen (fun k => msg.getD k 0)
    exact State.Sound.inv_finish (s := s.decodeSucceeded msg) ⟨by simpa using h.params, hf, by simpa using h.epoch⟩
      (by simpa using hd) ..
  · exact failed.inv_finish (by simpa using hd) ..
  · exact failed.inv_finish (by simpa using hd) ..

theorem State.Sound.inv_exec {s t : State} (h : s.Sound) {i : Instr} (he : exec i s = .next t) : t.Inv := by
  cases i with
  | bitsof => cases he; exact h.inv_packerDone _
  | byteof => cases he; exact h.inv_packerDone _
  | wrlsb => cases he; exact h.inv_packerDone _
  | rdlsb => cases he; exact h.inv_packerDone _
  | embed => cases he; exact h.nextDraw.inv_embedDone (Nat.lt_succ_self _)
  | decode => cases he; exact h.nextDraw.inv_decodeDone (Nat.lt_succ_self _)

/-! ## A micro-step of the engine -/

/-- A state whose command in progress is `job`, but for the job's registers. -/
structure State.Performing (s : State) (job : Job) : Prop extends s.Sound where
  done : s.status.done = false
  draw : job.draw < s.draws

section
variable {s : State} {job : Job}

theorem State.Performing.setCell (h : s.Performing job) {sp : Space} {a : Nat} (ha : a < s.cfg.depth sp) (v : Byte) :
    (s.setCell sp a v).Performing job where
  params := by simpa using h.params
  memories := State.memoriesOk_setCell h.memories ha v
  epoch := by simpa using h.epoch
  done := by simpa using h.done
  draw := by simpa using h.draw

theorem State.Performing.decodeFailed (h : s.Performing job) (d c : Nat) : (s.decodeFailed d c).Performing job where
  params := by simpa using h.params
  memories := State.memoriesOk_decodeFailed h.memories d c
  epoch := by simpa using h.epoch
  done := by simpa using h.done
  draw := by simpa using h.draw

/-- The command goes on with registers that are good for its next phase. -/
theorem State.Performing.inv_continueJob (h : s.Performing job) {job' : Job} (hd : job'.draw = job.draw)
    (hok : job'.ok s.cfg) : (s.continueJob job').Inv :=
  have hdraw : job'.draw < s.draws := hd ▸ h.draw
  ⟨h.params, h.memories, ⟨h.done, hok⟩, h.epoch, hdraw⟩

/-- The command ends, disturbed or not (70_reset R185). -/
theorem State.Performing.inv_finishJob (h : s.Performing job) (c : Code) (st : Option ScanState) (p : Bool) :
    (s.finishJob job c st p).Inv := by
  obtain ⟨he, hdone⟩ := s.finishJob_ends job c st p
  have hk := EngineKeeps.finishJob s job c st p
  exact State.Sound.inv_of_done
    ⟨by rw [hk.cfg]; exact h.params, State.memoriesOk_finishJob h.memories job c st p, by rw [hk.epoch, hk.draws]; exact h.epoch⟩
    he hdone (by rw [hk.draws]; exact h.draw)

theorem State.Performing.inv_primStep (h : s.Performing job) (op : Prim) : (s.primStep job op).Inv :=
  State.Performing.inv_finishJob (s := { s with result := s.primResult op })
    ⟨⟨h.params, h.memories, h.epoch⟩, h.done, h.draw⟩ ..

theorem State.badArg_eq_false_embed : s.badArg job .embed = false ↔
    job.n.toNat ≤ s.cfg.bufDepth ∧ job.l.toNat ≤ s.cfg.minDepth := by
  simp [State.badArg]

theorem State.badArg_eq_false_decode : s.badArg job .decode = false ↔ job.n.toNat ≤ s.cfg.bufDepth := by
  simp [State.badArg]

theorem Work.three_le_of_hasMarker {w : Work} {c : Params} (h : w.hasMarker c = true) : 3 ≤ w.accLen.toNat := by
  simp only [Work.hasMarker, Bool.and_eq_true, decide_eq_true_eq] at h
  exact h.1

/-- Phase SCAN is left with every complete group read, or at a zero group that was not accumulated. -/
theorem State.Performing.inv_leaveScan (h : s.Performing job) {c : Codec} {w : Work} (hb : s.badArg job c = false)
    (hacc : w.accLen.toNat ≤ capacity job.n.toNat) (hend : w.scan ≠ .scanning)
    (hterm : w.scan = .terminated → w.accLen.toNat + 1 ≤ capacity job.n.toNat) : (s.leaveScan job c w).Inv := by
  cases c with
  | embed =>
    obtain ⟨hn, hl⟩ := State.badArg_eq_false_embed.1 hb
    exact h.inv_continueJob rfl ⟨hn, hl, hend, hacc⟩
  | decode =>
    have hn := State.badArg_eq_false_decode.1 hb
    simp only [State.leaveScan]
    split
    · next hs hm => exact h.inv_continueJob rfl ⟨hn, hs, Work.three_le_of_hasMarker hm, hterm hs, Nat.zero_le _⟩
    · exact (h.decodeFailed _ _).inv_finishJob ..
    · exact (h.decodeFailed _ _).inv_finishJob ..

/-- A register that stays below a word does not wrap when it counts. -/
theorem toNat_add_one_of_lt {a n : Word} (h : a.toNat < n.toNat) : (a + 1).toNat = a.toNat + 1 := by
  have := n.isLt
  rw [BitVec.toNat_add]; simp; omega

/-- Phase SCAN: the group in hand lies within the buffer, so its index does not wrap (41_frame_codec R126). -/
theorem State.Performing.inv_scanStep (h : s.Performing job) {c : Codec} (hc : job.stage = .scan c) (hok : job.ok s.cfg) :
    (s.scanStep job c).Inv := by
  simp only [Job.ok, hc] at hok
  obtain ⟨hscan, hacc, hg, hj⟩ := hok
  unfold State.scanStep
  dsimp only
  split
  · exact h.inv_finishJob ..
  next hb =>
  have hb : s.badArg job c = false := by simpa using hb
  split
  · refine h.inv_leaveScan hb ?_ (by simp) (by simp)
    simp only [hacc, capacity]; omega
  next hgroup =>
  have hroom : 8 * (job.work.g.toNat + 1) ≤ job.n.toNat := by
    by_cases h0 : job.work.j = 0
    · exact Nat.le_of_not_lt fun hlt => hgroup ⟨h0, hlt⟩
    · exact hj h0
  split
  · split
    · refine h.inv_leaveScan hb ?_ (by simp) fun _ => ?_ <;> simp only [hacc, capacity] <;> omega
    · refine h.inv_continueJob rfl ?_
      have hg' : (job.work.g + 1).toNat = job.work.g.toNat + 1 := toNat_add_one_of_lt (n := job.n) (by omega)
      simp only [Job.ok, hc]
      exact ⟨hscan, by rw [hacc], by rw [hg']; exact hroom, fun h0 => absurd rfl h0⟩
  · refine h.inv_continueJob rfl ?_
    simp only [Job.ok, hc]
    exact ⟨hscan, hacc, hg, fun _ => hroom⟩

/-- Phase CAPCHK: WRITE starts only where the frame fits, so the buffer is not empty (41_frame_codec R133). -/
theorem State.Performing.inv_capchkStep (h : s.Performing job) (hc : job.stage = .capchk) (hok : job.ok s.cfg) :
    (s.capchkStep job).Inv := by
  simp only [Job.ok, hc] at hok
  obtain ⟨hn, hl, hscan, -⟩ := hok
  unfold State.capchkStep
  dsimp only
  split
  · exact h.inv_finishJob ..
  split
  · exact h.inv_finishJob ..
  next hfits =>
  have hfits : required job.l.toNat ≤ capacity job.n.toNat := Nat.le_of_not_lt hfits
  have hpos : 0 < job.n.toNat := by simp only [required, capacity] at hfits; omega
  exact h.inv_continueJob rfl ⟨hn, hl, hscan, hfits, hpos⟩

/-- Phase WRITE: the cell is below `n`, so below BUF_DEPTH (20_memory R61). -/
theorem State.Performing.inv_writeStep (h : s.Performing job) (hc : job.stage = .write) (hok : job.ok s.cfg) :
    (s.writeStep job).Inv := by
  simp only [Job.ok, hc] at hok
  obtain ⟨hn, hl, hscan, hfits, hi⟩ := hok
  have hcell := h.setCell (sp := .dst) (Nat.lt_of_lt_of_le hi hn)
  unfold State.writeStep
  dsimp only
  split
  · next hnext =>
    refine (hcell _).inv_continueJob rfl ?_
    simp only [Job.ok, hc, State.setCell_cfg, toNat_add_one_of_lt hi]
    exact ⟨hn, hl, hscan, hfits, hnext⟩
  · exact (hcell _).inv_finishJob ..

/-- Phase OUTPUT: the index is below the message's length, which MOUT has room for (41_frame_codec R139). -/
theorem State.Performing.inv_outputStep (h : s.Performing job) (hc : job.stage = .output) (hok : job.ok s.cfg) :
    (s.outputStep job).Inv := by
  simp only [Job.ok, hc, capacity] at hok
  obtain ⟨hn, hscan, hlen, hcap, -⟩ := hok
  unfold State.outputStep
  dsimp only
  split
  · next hk =>
    have hroom : job.work.k.toNat < s.cfg.depth .mout := by
      have := Params.mout_room h.params
      simp only [Params.depth]; omega
    refine (h.setCell hroom _).inv_continueJob rfl ?_
    have hk' : (job.work.k + 1).toNat = job.work.k.toNat + 1 := toNat_add_one_of_lt (n := job.work.accLen) (by omega)
    simp only [Job.ok, hc, State.setCell_cfg, capacity, hk']
    exact ⟨hn, hscan, hlen, hcap, hk⟩
  · exact State.Performing.inv_finishJob (s := { s with msgOutLen := BitVec.ofNat 32 _ })
      ⟨⟨h.params, h.memories, h.epoch⟩, h.done, h.draw⟩ ..

theorem State.Performing.inv_engineStep (h : s.Performing job) (hok : job.ok s.cfg) : (s.engineStep job).Inv := by
  unfold State.engineStep
  split
  · exact h.inv_primStep _
  · next hc => exact h.inv_scanStep hc hok
  · next hc => exact h.inv_capchkStep hc hok
  · next hc => exact h.inv_writeStep hc hok
  · next hc => exact h.inv_outputStep hc hok

end

/-! ## An input of the host -/

/-- The outputs and the engine are as before, so their part of the invariant holds as before. -/
theorem HostKeeps.inv {s t : State} (hk : HostKeeps s t) (h : s.Inv) (hm : t.memoriesOk) : t.Inv := by
  obtain ⟨hc, -, he, hepoch, hdraw⟩ := h
  refine ⟨hk.cfg ▸ hc, hm, ?_, hk.epoch ▸ Nat.lt_of_lt_of_le hepoch hk.draws,
    hk.engine.draw_eq ▸ Nat.lt_of_lt_of_le hdraw hk.draws⟩
  have hsame := hk.engine
  unfold State.engineOk State.untouched at *
  rw [hk.status, hk.msgOutLen, hk.result, hk.dst, hk.mout, hk.cfg]
  generalize s.engine = e at *
  generalize t.engine = e' at *
  cases hsame with
  | idle d => exact he
  | running job => exact he

/-- A byte write lands below the depth only (20_memory R56). -/
theorem State.memoriesOk_hostWriteByte {s : State} (h : s.memoriesOk) (sp : Space) (a : Nat) (v : Byte) :
    (s.hostWriteByte sp a v).memoriesOk := by
  have landed : ∀ sp, a < s.cfg.depth sp → (s.setCell sp a v).disturb.memoriesOk := fun sp ha =>
    State.memoriesOk_congr (State.memoriesOk_setCell h ha v) (by simp) (fun sp => by cases sp <;> simp)
  cases sp with
  | src => simp only [State.hostWriteByte]; split; exacts [landed .src ‹_›, h]
  | min => simp only [State.hostWriteByte]; split; exacts [landed .min ‹_›, h]
  | dst => exact h
  | mout => exact h

theorem State.Inv.hostWriteByte {s : State} (h : s.Inv) (sp : Space) (a : Nat) (v : Byte) : (s.hostWriteByte sp a v).Inv :=
  (HostKeeps.hostWriteByte s sp a v).inv h (State.memoriesOk_hostWriteByte h.sound.memories sp a v)

theorem State.Inv.deliver {s : State} (h : s.Inv) (r : Reading) : (s.deliver r).Inv :=
  (HostKeeps.deliver s r).inv h h.sound.memories

theorem State.Inv.setInbox {s : State} (h : s.Inv) (q : List Event) : (s.setInbox q).Inv :=
  (HostKeeps.setInbox s q).inv h h.sound.memories

theorem State.Inv.useSlot {s : State} (h : s.Inv) : s.useSlot.Inv :=
  (HostKeeps.useSlot s).inv h (State.memoriesOk_congr h.sound.memories (by simp) (fun sp => by cases sp <;> simp))

theorem State.Inv.drawSlots {s : State} (h : s.Inv) : s.drawSlots.Inv :=
  (HostKeeps.drawSlots s).inv h (State.memoriesOk_congr h.sound.memories (by simp) (fun sp => by rw [s.drawSlots_eq]; rfl))

/-- A scan that has read nothing lies within any buffer (41_frame_codec R126). -/
theorem Job.ok_of_scan_start {c : Params} {job : Job} {k : Codec} {w : Work} (hk : job.stage = .scan k)
    (hw : job.work = w.start) : job.ok c := by
  simp [Job.ok, hk, hw, Work.start]

/-- Acceptance in the stepped form: DONE is 0 and a scan starts before its first group (10_state R24, 41_frame_codec R126). -/
theorem State.Sound.inv_begin {s : State} (h : s.Sound) (i : Instr) : (s.begin i).Inv := by
  refine ⟨h.params, h.memories, ⟨rfl, ?_⟩, h.nextDraw.epoch, Nat.lt_succ_self _⟩
  cases i with
  | bitsof | byteof | wrlsb | rdlsb => trivial
  | embed => exact Job.ok_of_scan_start (k := .embed) rfl rfl
  | decode => exact Job.ok_of_scan_start (k := .decode) rfl rfl

theorem State.Sound.inv_accept {s t : State} (h : s.Sound) {w : Word} (ht : s.accept w = .next t) : t.Inv := by
  unfold State.accept at ht
  split at ht
  · cases ht; exact h.nextDraw.inv_finish (Nat.lt_succ_self _) ..
  · split at ht
    · exact h.inv_exec ht
    · cases ht; exact h.inv_begin _

theorem State.Inv.hostWrite {s t : State} (h : s.Inv) {off : Byte} {v : Word} (ht : s.hostWrite off v = .next t) : t.Inv := by
  obtain ⟨-, -, hw⟩ | ⟨t', hw, hk, hm⟩ := s.hostWrite_cases off v <;> rw [hw] at ht
  · exact h.sound.inv_accept ht
  · cases ht; exact hk.inv h (State.memoriesOk_congr h.sound.memories hk.cfg hm)

/-- After a reset nothing is listed, every output is as reset left it, and the draw it took is below the next (70_reset R181). -/
theorem State.inv_resetEvent {s : State} (hc : s.cfg.wellFormed = true) : s.resetEvent.Inv :=
  ⟨hc, State.memoriesOk_of_nil fun sp => by cases sp <;> rfl, fun _ => ⟨rfl, rfl, rfl, rfl, rfl⟩,
    Nat.lt_succ_self _, Nat.lt_succ_self _⟩

theorem State.Inv.perform {s t : State} (h : s.Inv) {e : Event} (ht : s.perform e = .next t) : t.Inv := by
  cases e with
  | wr off v => exact h.hostWrite ht
  | rd off => cases ht; exact h.deliver _
  | wrb sp a v => cases ht; exact h.hostWriteByte ..
  | rdb sp a => cases ht; exact h.deliver _
  | poll =>
    cases ht
    split
    · exact (h.deliver _).setInbox _
    · exact h.deliver _
  | wrLast off => exact h.hostWrite ht
  | wrbLast sp a => cases ht; exact h.hostWriteByte ..
  | reset => cases ht; exact State.inv_resetEvent h.sound.params

/-! ## The step -/

/-- The running command of a good state. -/
theorem State.Inv.performing {s : State} (h : s.Inv) {job : Job} (hj : s.engine = .running job) :
    s.Performing job ∧ job.ok s.cfg := by
  have hsound := h.sound
  obtain ⟨-, -, he, -, hd⟩ := h
  simp only [State.engineOk, hj] at he
  rw [hj] at hd
  exact ⟨⟨hsound, he.1, hd⟩, he.2⟩

theorem State.Inv.engineTurn {s : State} (h : s.Inv) {job : Job} (hj : s.engine = .running job) : (s.engineTurn job).Inv := by
  obtain ⟨hp, hok⟩ := h.performing hj
  exact (hp.inv_engineStep hok).drawSlots

/-- Settles O57, by the three things a step can do: nothing, a micro-step of the engine, or one input. -/
theorem stepKeepsInvariant : Obligations.StepKeepsInvariant := by
  intro s t h ht
  obtain ⟨-, -, hs⟩ | ⟨job, hj, -, hs⟩ | ⟨e, rest, -, -, hs⟩ := step_cases s <;> rw [hs] at ht
  · cases ht; exact h
  · cases ht; exact h.engineTurn hj
  · exact (h.useSlot.setInbox rest).perform ht

/-! ## The invariant right after reset -/

/-- The OPEN parameters meet R9's constraints (00_scope R9, R11). -/
theorem Config.params_wellFormed (unit : Nat) : (Config.params unit).wellFormed = true := by
  have hb := (Config.bufDepthWord unit).isLt
  have hm := (Config.minDepthWord unit).isLt
  simp only [Params.wellFormed, Bool.and_eq_true, decide_eq_true_eq]
  refine ⟨⟨⟨Nat.le_sub_one_of_lt hb, Nat.le_sub_one_of_lt hm⟩, ?_⟩, rfl⟩
  rw [Nat.zero_max]
  exact Nat.le_add_right _ _

/-- Settles O56: nothing is listed, nothing runs, and every output is as reset left it. -/
theorem invariantAtReset : Obligations.InvariantAtReset :=
  ⟨Config.params_wellFormed 0, State.memoriesOk_of_nil fun sp => by cases sp <;> rfl, fun _ => ⟨rfl, rfl, rfl, rfl, rfl⟩,
    Nat.one_pos, Nat.one_pos⟩

end Sys2Proof.Machine
end

section
/-! PROOFS. The host's registers: the offset table of an idle block, the views CAPACITY and MARKER, and STATUS bit by bit. -/

namespace Sys2Proof.Machine

/-! ## The register file of an idle block -/

/-- The byte offset of a register (10_state R21). -/
def Reg.offset : Reg → Byte
  | .cmd       => 0x00
  | .status    => 0x04
  | .bufLen    => 0x08
  | .msgInLen  => 0x0C
  | .msgOutLen => 0x10
  | .capacity  => 0x14
  | .opa       => 0x18
  | .opb       => 0x1C
  | .result    => 0x20
  | .marker    => 0x24

theorem Reg.at_eq_some_iff (off : Byte) (r : Reg) : Reg.at off = some r ↔ off = r.offset := by
  revert off
  cases r <;> decide +kernel

theorem Reg.at_eq_none_iff (off : Byte) : Reg.at off = none ↔
    off ≠ 0x00 ∧ off ≠ 0x04 ∧ off ≠ 0x08 ∧ off ≠ 0x0C ∧ off ≠ 0x10 ∧ off ≠ 0x14 ∧ off ≠ 0x18 ∧ off ≠ 0x1C ∧ off ≠ 0x20
      ∧ off ≠ 0x24 := by
  revert off
  decide +kernel

/-- What a host read of an idle block returns at each of the 256 offsets (10_state R21, R38, R43). -/
theorem State.regWord_idle {s : State} (h : s.busy = false) (off : Byte) : s.regWord off =
    if off = 0x04 then s.statusWord else if off = 0x08 then s.bufLen else if off = 0x0C then s.msgInLen
    else if off = 0x10 then s.msgOutLen else if off = 0x14 then s.bufLen >>> 3 else if off = 0x18 then s.opa
    else if off = 0x1C then s.opb else if off = 0x20 then s.result else if off = 0x24 then s.markerReg else 0 := by
  unfold State.regWord
  cases hr : Reg.at off with
  | none =>
    have hoff := (Reg.at_eq_none_iff off).1 hr
    simp only [hoff, ↓reduceIte]
  | some r =>
    obtain rfl := (Reg.at_eq_some_iff off r).1 hr
    cases r <;> simp [h, Reg.offset, State.readReg, State.capacityReg_eq]

/-- What a host write does to an idle block at each of the 256 offsets (10_state R38, R43). -/
theorem State.hostWrite_idle_at {s : State} (h : s.busy = false) (off : Byte) (v : Word) : s.hostWrite off v =
    if off = 0x00 then s.accept v
    else if off = 0x08 then .next { s with bufLen := v }
    else if off = 0x0C then .next { s with msgInLen := v }
    else if off = 0x18 then .next { s with opa := v }
    else if off = 0x1C then .next { s with opb := v }
    else .next s := by
  rw [State.hostWrite_idle h]
  cases hr : Reg.at off with
  | none =>
    have hoff := (Reg.at_eq_none_iff off).1 hr
    simp only [hoff, ↓reduceIte]
  | some r =>
    obtain rfl := (Reg.at_eq_some_iff off r).1 hr
    cases r <;> simp [Reg.offset]

/-- A read of an idle block changes nothing but what the host has read (10_state R43). -/
theorem State.deliver_idle {s : State} (h : s.busy = false) (r : Reading) :
    s.deliver r = { s with outbox := s.outbox ++ [r] } := by
  simp [State.deliver, h]

/-- Settles O47, from the offset table for a read and for a write. -/
theorem hostRegisterAccess : Obligations.HostRegisterAccess := by
  intro s rest off v hb
  have hq : (s.setInbox rest).busy = false := hb
  refine ⟨fun hi => ?_, fun hi => ?_⟩
  · rw [step_idle hb hi]
    simp only [State.perform, State.hostRead, State.deliver_idle hq, State.regWord_idle hq]
    rfl
  · rw [step_idle hb hi]
    exact State.hostWrite_idle_at hq off v

/-! ## The views CAPACITY and MARKER -/

/-- A read of CAPACITY returns the view whether a command runs or not (10_state R33; 70_reset R186). -/
theorem State.regWord_capacity (s : State) : s.regWord 0x14 = s.bufLen >>> 3 := by
  rw [← s.capacityReg_eq]
  simp [State.regWord, Reg.at, State.busyReg, State.readReg]

/-- A read of MARKER returns the parameter whether a command runs or not (10_state R37; 70_reset R186). -/
theorem State.regWord_marker (s : State) : s.regWord 0x24 = s.markerReg := by
  simp [State.regWord, Reg.at, State.busyReg, State.readReg]

/-- The marker's bytes do not overlap: byte `k` has weight `2^(8k)` (10_state R37). -/
theorem State.toNat_markerReg (s : State) :
    s.markerReg.toNat = 65536 * s.cfg.m2.toNat + 256 * s.cfg.m1.toNat + s.cfg.m0.toNat := by
  have h0 := s.cfg.m0.isLt
  have h1 := s.cfg.m1.isLt
  have h2 := s.cfg.m2.isLt
  have e2 : (s.cfg.m2.setWidth 32 <<< 16).toNat = 2 ^ 16 * s.cfg.m2.toNat := by simp [Nat.shiftLeft_eq]; omega
  have e1 : (s.cfg.m1.setWidth 32 <<< 8).toNat = 2 ^ 8 * s.cfg.m1.toNat := by simp [Nat.shiftLeft_eq]; omega
  have e0 : (s.cfg.m0.setWidth 32).toNat = s.cfg.m0.toNat := by simp; omega
  calc s.markerReg.toNat
    _ = (2 ^ 16 * s.cfg.m2.toNat ||| 2 ^ 8 * s.cfg.m1.toNat) ||| s.cfg.m0.toNat := by
      rw [State.markerReg, BitVec.toNat_or, BitVec.toNat_or, e2, e1, e0]
    _ = 2 ^ 8 * (2 ^ 8 * s.cfg.m2.toNat + s.cfg.m1.toNat) ||| s.cfg.m0.toNat := by
      rw [← Nat.two_pow_add_eq_or_of_lt (show 2 ^ 8 * s.cfg.m1.toNat < 2 ^ 16 by omega), Nat.mul_add, ← Nat.mul_assoc,
        ← Nat.pow_add]
    _ = 65536 * s.cfg.m2.toNat + 256 * s.cfg.m1.toNat + s.cfg.m0.toNat := by
      rw [← Nat.two_pow_add_eq_or_of_lt (by omega)]; ring

theorem State.markerReg_of_marker {s : State} (h : s.cfg.marker = [0x73, 0x74, 0x67]) : s.markerReg = 0x00677473 := by
  simp only [Params.marker, List.cons.injEq, and_true] at h
  obtain ⟨h0, h1, h2⟩ := h
  rw [State.markerReg, h0, h1, h2]
  rfl

/-- Settles O48: both are views, read alike at every instant, and no write reaches them. -/
theorem capacityAndMarkerViews : Obligations.CapacityAndMarkerViews := by
  intro s
  rw [s.regWord_capacity, s.regWord_marker]
  exact ⟨by simp [Nat.shiftRight_eq_div_pow], s.toNat_markerReg, State.markerReg_of_marker, fun v => ⟨rfl, rfl⟩⟩

/-! ## STATUS -/

/-- Settles O10: each field has its own bits, and no field reaches bits 3:2 or 31:11 (10_state R23). -/
theorem statusWordLayout : Obligations.StatusWordLayout := by
  intro s k hk
  simp only [State.statusWord, packStatus, BitVec.getLsbD_or, BitVec.getLsbD_shiftLeft, BitVec.getLsbD_setWidth,
    BitVec.getLsbD_ofBool, hk, decide_true, Bool.true_and]
  have err : 8 ≤ k → s.status.err.getLsbD (k - 4) = false := fun h => BitVec.getLsbD_of_ge _ _ (by omega)
  have scan : 10 ≤ k → s.status.scan.getLsbD (k - 8) = false := fun h => BitVec.getLsbD_of_ge _ _ (by omega)
  split_ifs <;> grind

end Sys2Proof.Machine
end

section
/-! PROOFS. Reset: what every register and every cell reads after it (10_state R42, 70_reset R181, R182). -/

namespace Sys2Proof.Machine

/-- With every register 0 the idle block reads 0 everywhere but at MARKER (10_state R42). -/
theorem State.regWord_of_cleared {s : State} (hb : s.busy = false) (hs : s.statusWord = 0) (hn : s.bufLen = 0)
    (hl : s.msgInLen = 0) (hm : s.msgOutLen = 0) (ha : s.opa = 0) (ho : s.opb = 0) (hr : s.result = 0) (off : Byte) :
    s.regWord off = if off = 0x24 then s.markerReg else 0 := by
  rw [State.regWord_idle hb, hs, hn, hl, hm, ha, ho, hr]
  by_cases h : off = 0x24
  · subst h; rfl
  · simp only [if_neg h, show (0 : Word) >>> 3 = 0 from rfl, ite_self]

/-- Settles O1: every stored register is 0 and MARKER is the parameter's. -/
theorem resetRegistersRead : Obligations.ResetRegistersRead := by
  refine ⟨fun off => ?_, rfl, fun sp => by cases sp <;> rfl⟩
  rw [State.regWord_of_cleared rfl (by decide) rfl rfl rfl rfl rfl rfl, State.markerReg_of_marker rfl]

/-- When the engine does not move, the oldest pending input takes effect. -/
theorem step_of_engineMoves_none {s : State} {e : Event} {rest : List Event} (hm : s.engineMoves = none)
    (hi : s.inbox = e :: rest) : step s = (s.useSlot.setInbox rest).perform e := by
  simp only [step, State.move, hm, State.hostTurn, hi]

theorem State.resetEvent_statusWord (s : State) : s.resetEvent.statusWord = 0 := by
  show packStatus false false 0 0 false = 0
  decide

/-- After a reset every cell is the free draw the reset took (70_reset R181). -/
theorem State.resetEvent_cell (s : State) (sp : Space) (a : Nat) :
    s.resetEvent.cell sp a = Config.freeCell s.cfg.unit s.draws sp a := by
  cases sp <;> rfl

/-- A reset of a state in which only the slots and the pending inputs have changed since (log 3). -/
theorem State.resetEvent_useSlot (s : State) (q : List Event) : (s.useSlot.setInbox q).resetEvent = s.resetEvent.setInbox q := by
  simp [State.resetEvent, State.setInbox]

/-- After a reset every register reads 0 but MARKER (10_state R42). -/
theorem State.resetEvent_regWord (s : State) (off : Byte) :
    s.resetEvent.regWord off = if off = 0x24 then s.markerReg else 0 :=
  State.regWord_of_cleared rfl s.resetEvent_statusWord rfl rfl rfl rfl rfl rfl off

/-- Settles O2: the input takes effect between two steps, and leaves what a reset sets whatever was there. -/
theorem resetEventSetsEverything : Obligations.ResetEventSetsEverything := by
  intro s rest hi hm
  have hs : step s = .next (s.resetEvent.setInbox rest) := by
    rw [step_of_engineMoves_none hm hi, ← s.resetEvent_useSlot]; rfl
  refine ⟨_, hs, rfl, s.resetEvent_statusWord, rfl, rfl, rfl, rfl, rfl, rfl, s.resetEvent_regWord, fun hk => ?_, fun sp a => ?_,
    rfl, rfl, rfl, rfl⟩
  · exact (s.resetEvent_regWord 0x24).trans (State.markerReg_of_marker hk)
  · rw [State.setInbox_cell, s.resetEvent_cell]

end Sys2Proof.Machine
end

section
/-! PROOFS. Acceptance of a command word in both forms, and the codes a command can end with (10_state R22, R24, R26). -/

namespace Sys2Proof.Machine

theorem State.accept_atomic {s : State} {w : Word} {i : Instr} (hf : s.form = .atomic) (hw : decode w = .ok i) :
    s.accept w = exec i s := by
  simp [State.accept, hw, hf]

theorem State.accept_stepped {s : State} {w : Word} {i : Instr} (hf : s.form = .stepped) (hw : decode w = .ok i) :
    s.accept w = .next (s.begin i) := by
  simp [State.accept, hw, hf]

/-- A CMD write at an idle block is an acceptance, the write being consumed (10_state R22). -/
theorem step_command {s : State} {w : Word} {rest : List Event} (hb : s.busy = false) (hi : s.inbox = .wr 0x00 w :: rest) :
    step s = (s.setInbox rest).accept w := by
  rw [step_idle hb hi, perform_command (s := s.setInbox rest) hb]

/-- Settles O6: the CMD write is an acceptance, and in the atomic form an acceptance is `exec`. -/
theorem stepRunsAcceptedCommand : Obligations.StepRunsAcceptedCommand := by
  intro s w i rest hb hf hi hw
  rw [step_command hb hi, State.accept_atomic (s := s.setInbox rest) hf hw]

/-- Every 32-bit number is the command word it stands for (log 15). -/
theorem decode_of_decodeTableWord {w : Nat} {i : Instr} (h : decodeTableWord 32 w = some i) :
    decode (BitVec.ofNat 32 (tableWord 32 w)) = .ok i := by
  unfold decodeTableWord at h
  split at h
  · split at h
    · next hd => cases h; exact hd
    · cases h
  · cases h

/-- Settles O7: the state that holds the word is idle, in the atomic form, with the CMD write next. -/
theorem fetchWordRunsNext : Obligations.FetchWordRunsNext := by
  intro s w i h
  exact stepRunsAcceptedCommand (s.withFetchWord 32 w) _ i s.inbox rfl rfl rfl (decode_of_decodeTableWord h)

/-! ## What acceptance in the stepped form leaves alone: all but DONE, the engine and the counters of draws -/

@[simp] theorem State.begin_bufLen (s : State) (i : Instr) : (s.begin i).bufLen = s.bufLen := rfl
@[simp] theorem State.begin_msgInLen (s : State) (i : Instr) : (s.begin i).msgInLen = s.msgInLen := rfl
@[simp] theorem State.begin_msgOutLen (s : State) (i : Instr) : (s.begin i).msgOutLen = s.msgOutLen := rfl
@[simp] theorem State.begin_opa (s : State) (i : Instr) : (s.begin i).opa = s.opa := rfl
@[simp] theorem State.begin_opb (s : State) (i : Instr) : (s.begin i).opb = s.opb := rfl
@[simp] theorem State.begin_result (s : State) (i : Instr) : (s.begin i).result = s.result := rfl
@[simp] theorem State.begin_src (s : State) (i : Instr) : (s.begin i).src = s.src := rfl
@[simp] theorem State.begin_dst (s : State) (i : Instr) : (s.begin i).dst = s.dst := rfl
@[simp] theorem State.begin_min (s : State) (i : Instr) : (s.begin i).min = s.min := rfl
@[simp] theorem State.begin_mout (s : State) (i : Instr) : (s.begin i).mout = s.mout := rfl
@[simp] theorem State.begin_epoch (s : State) (i : Instr) : (s.begin i).epoch = s.epoch := rfl
@[simp] theorem State.begin_inbox (s : State) (i : Instr) : (s.begin i).inbox = s.inbox := rfl

/-- While a command runs STATUS reads BUSY 1 and DONE 0 (10_state R24, 70_reset R186). -/
theorem State.regWord_status_busy {s : State} (h : s.busy = true) :
    (s.regWord 0x04).getLsbD 0 = true ∧ (s.regWord 0x04).getLsbD 1 = false := by
  simp [State.regWord, Reg.at, h, State.busyReg, busyStatus, packStatus]

/-- Settles O8: the CMD write is an acceptance, and in the stepped form an acceptance is `begin`. -/
theorem acceptanceSetsBusy : Obligations.AcceptanceSetsBusy := by
  intro s w i rest hb hf hi hw
  have hs : step s = .next ((s.setInbox rest).begin i) := by
    rw [step_command hb hi, State.accept_stepped (s := s.setInbox rest) hf hw]
  obtain ⟨hbusy, hdone⟩ := State.regWord_status_busy (s := (s.setInbox rest).begin i) rfl
  have hcells : ∀ sp, SameCells sp s ((s.setInbox rest).begin i) := fun sp =>
    State.cell_eq_of_fields (by simp) (by simp) (by simp) (by simp) (by simp) (by simp) sp
  refine ⟨_, _, hs, rfl, rfl, rfl, rfl, rfl, rfl, rfl, hbusy, hdone, ?_, ?_, ?_, hcells, ?_, ?_⟩ <;> simp [SameHostRegs]

/-! ## Which command can end with which code -/

/-- Settles O36, by the outcomes of EMBED and of DECODE; a packer command always ends with SUCCESS. -/
theorem codesRaisedBy : Obligations.CodesRaisedBy := by
  intro i s t h
  cases i with
  | bitsof => cases h; exact ⟨rfl, .inl rfl⟩
  | byteof => cases h; exact ⟨rfl, .inl rfl⟩
  | wrlsb => cases h; exact ⟨rfl, .inl rfl⟩
  | rdlsb => cases h; exact ⟨rfl, .inl rfl⟩
  | embed =>
    cases h
    obtain ⟨-, h⟩ | ⟨-, -, ⟨-, h⟩ | ⟨-, -, h⟩ | ⟨-, -, h⟩⟩ := s.nextDraw.embedDone_cases s.draws <;>
      simp [h, Status.finished, Code.bits]
  | decode =>
    cases h
    obtain ⟨-, h⟩ | ⟨-, ⟨msg, -, h⟩ | ⟨-, -, h⟩ | ⟨-, -, -, h⟩⟩ := s.nextDraw.decodeDone_cases s.draws <;>
      simp [h, Status.finished, Code.bits]

end Sys2Proof.Machine
end

section
/-! PROOFS. Host byte accesses of an idle block (20_memory R55, R56). -/

namespace Sys2Proof.Machine

/-- A byte write reaches a cell of an idle block only in SRC or MIN and below the depth (20_memory R55, R56). -/
theorem State.hostWriteByte_idle {s : State} (h : s.busy = false) (sp : Space) (a : Nat) (v : Byte) :
    s.hostWriteByte sp a v = if (sp = .src ∨ sp = .min) ∧ a < s.cfg.depth sp then s.setCell sp a v else s := by
  have quiet : (s.setCell sp a v).disturb = s.setCell sp a v :=
    State.disturb_of_idle (by rwa [State.busy, State.setCell_engine])
  cases sp with
  | src | min => simp only [State.hostWriteByte, quiet, true_or, or_true, true_and]
  | dst | mout => simp [State.hostWriteByte]

/-- Writing a cell leaves STATUS as it reads (10_state R23). -/
@[simp] theorem State.setCell_statusWord (s : State) (sp : Space) (a : Nat) (v : Byte) :
    (s.setCell sp a v).statusWord = s.statusWord := by
  simp [State.statusWord, State.busy]

/-- A byte read of an idle block returns the cell, 0x00 at or above the depth (20_memory R55, R56). -/
theorem State.cellByte_idle {s : State} (h : s.busy = false) (sp : Space) (a : Nat) :
    s.cellByte sp a = if a < s.cfg.depth sp then s.cell sp a else 0x00 := by
  cases sp <;> simp [State.cellByte, h]

/-- Settles O49: a read delivers the cell, a write lands where `State.hostWriteByte_idle` says. -/
theorem hostByteAccess : Obligations.HostByteAccess := by
  intro s rest sp a v hb
  have hq : (s.setInbox rest).busy = false := hb
  refine ⟨fun hi => ?_, fun hi => ?_⟩
  · rw [step_idle hb hi]
    simp only [State.perform, State.hostReadByte, State.deliver_idle hq, State.cellByte_idle hq, State.setInbox_cell]
    rfl
  · refine ⟨_, step_idle hb hi, ?_⟩
    rw [State.hostWriteByte_idle hq]
    split
    · next hin =>
      refine ⟨by simp, by rwa [State.busy, State.setCell_engine], by simp, by simp [SameHostRegs], by simp, by simp, by simp,
        fun sp' a' => ?_⟩
      simp only [State.setInbox_cfg] at hin
      simp [State.cell_setCell, hin]
    · next hout =>
      refine ⟨rfl, hb, rfl, ⟨rfl, rfl, rfl, rfl⟩, rfl, rfl, rfl, fun sp' a' => ?_⟩
      rw [State.setInbox_cell, if_neg fun h => hout h.2.2]

end Sys2Proof.Machine
end

section
/-! PROOFS. No command writes what it reads (20_memory R62): the inputs after a command and after a micro-step. -/

namespace Sys2Proof.Machine

/-- The inputs of a command, and the configuration, read as before (20_memory R62). -/
def SameInputs (s t : State) : Prop := SameCells .src s t ∧ SameCells .min s t ∧ SameHostRegs s t ∧ t.cfg = s.cfg

theorem SameInputs.of_fields {s t : State} (hsrc : t.src = s.src) (hmin : t.min = s.min) (hregs : SameHostRegs s t)
    (hcfg : t.cfg = s.cfg) (hepoch : t.epoch = s.epoch) : SameInputs s t :=
  ⟨State.cell_congr (sp := .src) hsrc hcfg hepoch, State.cell_congr (sp := .min) hmin hcfg hepoch, hregs, hcfg⟩

theorem State.packerDone_sameInputs (s : State) (r : Word) : SameInputs s (s.packerDone r) :=
  .of_fields rfl rfl ⟨rfl, rfl, rfl, rfl⟩ rfl rfl

theorem State.embedDone_sameInputs (s : State) (d : Nat) : SameInputs s (s.embedDone d) := by
  obtain ⟨-, h⟩ | ⟨-, -, ⟨-, h⟩ | ⟨-, -, h⟩ | ⟨-, -, h⟩⟩ := s.embedDone_cases d <;>
    exact .of_fields (by simp [h]) (by simp [h]) (by simp [h, SameHostRegs]) (by simp) (by simp [h])

theorem State.decodeDone_sameInputs (s : State) (d : Nat) : SameInputs s (s.decodeDone d) := by
  obtain ⟨-, h⟩ | ⟨-, ⟨msg, -, h⟩ | ⟨-, -, h⟩ | ⟨-, -, -, h⟩⟩ := s.decodeDone_cases d <;>
    exact .of_fields (by simp [h]) (by simp [h]) (by simp [h, SameHostRegs]) (by simp) (by simp [h])

/-- A command in the atomic form. -/
theorem exec_sameInputs {i : Instr} {s t : State} (h : exec i s = .next t) : SameInputs s t := by
  cases i with
  | bitsof | byteof | wrlsb | rdlsb => cases h; exact s.packerDone_sameInputs _
  | embed => cases h; exact s.nextDraw.embedDone_sameInputs _
  | decode => cases h; exact s.nextDraw.decodeDone_sameInputs _

/-- A micro-step of the engine, whatever its phase and whether the host disturbed the command or not. -/
theorem State.engineTurn_sameInputs (s : State) (job : Job) : SameInputs s (s.engineTurn job) := by
  have hk := EngineKeeps.engineStep s job
  rw [State.engineTurn, State.drawSlots_eq]
  exact .of_fields hk.src hk.min ⟨hk.bufLen, hk.msgInLen, hk.opa, hk.opb⟩ hk.cfg hk.epoch

/-- Settles O43: the atomic form by the outcomes of each command, the engine form by what no micro-step writes. -/
theorem commandsNeverWriteInputs : Obligations.CommandsNeverWriteInputs :=
  ⟨fun _ _ _ h => exec_sameInputs h, State.engineTurn_sameInputs⟩

end Sys2Proof.Machine
end

section
/-! PROOFS. Each outcome of DECODE and of EMBED from what the operands say (41_frame_codec R129, R131), and that nothing else enters
(20_memory R51, R53). -/

namespace Sys2Proof.Machine

/-! ## The outcome that the operands determine -/

section
variable {s : State}

theorem State.decodeDone_badArg (hn : s.cfg.bufDepth < s.n) (d : Nat) : s.decodeDone d = s.finish d .badArg none false :=
  if_pos hn

theorem State.decodeDone_success (hn : s.n ≤ s.cfg.bufDepth) {msg : List Byte}
    (h : decodeResult s.cfg s.sample s.n = .success msg) (d : Nat) :
    s.decodeDone d = (s.decodeSucceeded msg).finish d .success (some .terminated) true := by
  rw [decodeResult_eq] at h
  rw [State.decodeDone, if_neg (Nat.not_lt.2 hn)]
  simp only [h]

theorem State.decodeDone_noMessage (hn : s.n ≤ s.cfg.bufDepth) (h : decodeResult s.cfg s.sample s.n = .noMessage) (d : Nat) :
    s.decodeDone d = (s.decodeFailed d (capacity s.n)).finish d .noMessage (some (scan s.sample s.n).1)
      (hasMarker s.cfg (scan s.sample s.n).2) := by
  rw [decodeResult_eq] at h
  rw [State.decodeDone, if_neg (Nat.not_lt.2 hn)]
  simp only [h]

theorem State.decodeDone_malformed (hn : s.n ≤ s.cfg.bufDepth) (h : decodeResult s.cfg s.sample s.n = .malformed) (d : Nat) :
    s.decodeDone d = (s.decodeFailed d (capacity s.n)).finish d .malformed (some .exhausted) true := by
  rw [decodeResult_eq] at h
  rw [State.decodeDone, if_neg (Nat.not_lt.2 hn)]
  simp only [h]

theorem State.embedDone_badArg (h : s.cfg.bufDepth < s.n ∨ s.cfg.minDepth < s.l) (d : Nat) :
    s.embedDone d = s.finish d .badArg none false :=
  if_pos h

/-- SRC holds a frame exactly when its scan terminates with MARKER (41_frame_codec R127, R132). -/
theorem State.holdsFrame_iff (s : State) :
    s.holdsFrame ↔ (scan s.sample s.n).1 = .terminated ∧ hasMarker s.cfg (scan s.sample s.n).2 = true := by
  simp only [State.holdsFrame, decodeResult_success_iff, exists_and_left, exists_eq, and_true]

theorem State.embedDone_alreadyEncoded (hn : s.n ≤ s.cfg.bufDepth) (hl : s.l ≤ s.cfg.minDepth) (h : s.holdsFrame) (d : Nat) :
    s.embedDone d = s.finish d .alreadyEncoded (some .terminated) true := by
  obtain ⟨hb, -⟩ | ⟨-, -, ⟨-, he⟩ | ⟨hf, -⟩ | ⟨hf, -⟩⟩ := s.embedDone_cases d
  · omega
  · exact he
  · exact absurd h hf
  · exact absurd h hf

theorem State.embedDone_tooLarge (hn : s.n ≤ s.cfg.bufDepth) (hl : s.l ≤ s.cfg.minDepth) (h : ¬ s.holdsFrame)
    (hc : capacity s.n < required s.l) (d : Nat) :
    s.embedDone d = s.finish d .tooLarge (some (scan s.sample s.n).1) (hasMarker s.cfg (scan s.sample s.n).2) := by
  obtain ⟨hb, -⟩ | ⟨-, -, ⟨hf, -⟩ | ⟨-, -, he⟩ | ⟨-, hfits, -⟩⟩ := s.embedDone_cases d
  · omega
  · exact absurd hf h
  · exact he
  · omega

/-- The buffer EMBED writes to DST (41_frame_codec R134). -/
def State.embedded (s : State) : Nat → Byte := embedSample s.sample (bitsOf (frame s.cfg (s.message s.l)))

theorem State.embedDone_success (hn : s.n ≤ s.cfg.bufDepth) (hl : s.l ≤ s.cfg.minDepth) (h : ¬ s.holdsFrame)
    (hc : required s.l ≤ capacity s.n) (d : Nat) :
    s.embedDone d = (s.fill .dst s.embedded s.n).finish d .success (some (scan s.sample s.n).1)
      (hasMarker s.cfg (scan s.sample s.n).2) := by
  obtain ⟨hb, -⟩ | ⟨-, -, ⟨hf, -⟩ | ⟨-, hsmall, -⟩ | ⟨-, -, he⟩⟩ := s.embedDone_cases d
  · omega
  · exact absurd hf h
  · omega
  · exact he

end

/-! ## Two blocks that agree on the operands -/

/-- The blocks have the same configuration and the same input buffer: BUF_LEN and SRC below it (20_memory R51). -/
structure SameBuffer (s s' : State) : Prop where
  cfg    : s'.cfg = s.cfg
  bufLen : s'.bufLen = s.bufLen
  src    : ∀ i, i < s.n → s'.cell .src i = s.cell .src i

/-- The blocks also have the same message: MSG_IN_LEN and MIN below it (20_memory R53). -/
structure SameOperands (s s' : State) : Prop extends SameBuffer s s' where
  msgInLen : s'.msgInLen = s.msgInLen
  min      : ∀ k, k < s.l → s'.cell .min k = s.cell .min k

section
variable {s s' : State}

theorem SameBuffer.n_eq (h : SameBuffer s s') : s'.n = s.n := congrArg BitVec.toNat h.bufLen

theorem SameBuffer.scan_eq (h : SameBuffer s s') : scan s'.sample s'.n = scan s.sample s.n := by
  rw [h.n_eq]
  exact scan_congr fun i hi => h.src i (by unfold capacity at hi; omega)

theorem SameBuffer.decodeResult_eq (h : SameBuffer s s') :
    decodeResult s'.cfg s'.sample s'.n = decodeResult s.cfg s.sample s.n := by
  rw [Machine.decodeResult_eq, h.scan_eq, h.cfg]; rfl

theorem SameBuffer.holdsFrame_iff (h : SameBuffer s s') : s'.holdsFrame ↔ s.holdsFrame := by
  rw [State.holdsFrame_iff, State.holdsFrame_iff, h.scan_eq, h.cfg]

theorem SameOperands.l_eq (h : SameOperands s s') : s'.l = s.l := congrArg BitVec.toNat h.msgInLen

theorem SameOperands.message_eq (h : SameOperands s s') : s'.message s'.l = s.message s.l := by
  rw [h.l_eq]
  exact List.map_congr_left fun k hk => h.min k (List.mem_range.1 hk)

theorem SameOperands.embedded_eq (h : SameOperands s s') {i : Nat} (hi : i < s.n) : s'.embedded i = s.embedded i := by
  simp only [State.embedded, embedSample, h.message_eq, h.cfg, show s'.sample i = s.sample i from h.src i hi]

/-- DECODE of the same buffer ends alike, whatever draws it may use: BAD_ARG, or by the one classification of both scans. -/
theorem SameBuffer.decodeDone (h : SameBuffer s s') (d d' : Nat) :
    (s'.decodeDone d').status = (s.decodeDone d).status
      ∧ ((s.decodeDone d).status.err ≠ 0xE → (s'.decodeDone d').msgOutLen = (s.decodeDone d).msgOutLen)
      ∧ ((s.decodeDone d).status.err = 0x0 → ∀ k, k < (s.decodeDone d).msgOutLen.toNat →
          (s'.decodeDone d').cell .mout k = (s.decodeDone d).cell .mout k) := by
  have hn' : s'.n ≤ s'.cfg.bufDepth ↔ s.n ≤ s.cfg.bufDepth := by rw [h.n_eq, h.cfg]
  by_cases hn : s.n ≤ s.cfg.bufDepth
  · cases hr : decodeResult s.cfg s.sample s.n with
    | success msg =>
      rw [State.decodeDone_success hn hr, State.decodeDone_success (hn'.2 hn) (h.decodeResult_eq.trans hr)]
      refine ⟨rfl, fun _ => rfl, fun _ k hk => ?_⟩
      have hk : k < msg.length := Nat.lt_of_lt_of_le hk (by simpa using Nat.mod_le _ _)
      simp [State.cell_decodeSucceeded, hk]
    | noMessage =>
      rw [State.decodeDone_noMessage hn hr, State.decodeDone_noMessage (hn'.2 hn) (h.decodeResult_eq.trans hr)]
      simp [h.scan_eq, h.cfg, Status.finished, Code.bits]
    | malformed =>
      rw [State.decodeDone_malformed hn hr, State.decodeDone_malformed (hn'.2 hn) (h.decodeResult_eq.trans hr)]
      simp [Status.finished, Code.bits]
  · rw [State.decodeDone_badArg (Nat.lt_of_not_le hn), State.decodeDone_badArg (Nat.lt_of_not_le (hn'.not.2 hn))]
    simp [Status.finished, Code.bits]

/-- EMBED of the same message into the same buffer ends alike, and writes the same cells. -/
theorem SameOperands.embedDone (h : SameOperands s s') (d d' : Nat) :
    (s'.embedDone d').status = (s.embedDone d).status
      ∧ ((s.embedDone d).status.err = 0x0 → ∀ i, i < s.n → (s'.embedDone d').cell .dst i = (s.embedDone d).cell .dst i) := by
  have hn : s'.n = s.n := h.n_eq
  have hl : s'.l = s.l := h.l_eq
  have hf : s'.holdsFrame ↔ s.holdsFrame := h.holdsFrame_iff
  obtain ⟨hb, he⟩ | ⟨hbn, hbl, ⟨hd, he⟩ | ⟨hd, hc, he⟩ | ⟨hd, hc, he⟩⟩ := s.embedDone_cases d <;> rw [he]
  · rw [State.embedDone_badArg (by rwa [hn, hl, h.cfg])]
    simp [Status.finished, Code.bits]
  · rw [State.embedDone_alreadyEncoded (by rwa [hn, h.cfg]) (by rwa [hl, h.cfg]) (hf.2 hd)]
    simp [Status.finished, Code.bits]
  · rw [State.embedDone_tooLarge (by rwa [hn, h.cfg]) (by rwa [hl, h.cfg]) (hf.not.2 hd) (by rwa [hn, hl])]
    simp [h.scan_eq, h.cfg, Status.finished, Code.bits]
  · rw [State.embedDone_success (by rwa [hn, h.cfg]) (by rwa [hl, h.cfg]) (hf.not.2 hd) (by rwa [hn, hl])]
    refine ⟨by simp [h.scan_eq, h.cfg], fun _ i hi => ?_⟩
    simp only [State.finish_cell, State.cell_fill, hn, hi, and_self, if_true]
    exact h.embedded_eq hi

theorem SameBuffer.nextDraw (h : SameBuffer s s') : SameBuffer s.nextDraw s'.nextDraw := ⟨h.cfg, h.bufLen, h.src⟩

theorem SameOperands.nextDraw (h : SameOperands s s') : SameOperands s.nextDraw s'.nextDraw :=
  ⟨h.toSameBuffer.nextDraw, h.msgInLen, h.min⟩

end

/-- Settles O45: each command answers in both blocks, and ends alike from the same operands. -/
theorem codecReadsOnlyItsOperands : Obligations.CodecReadsOnlyItsOperands := by
  refine ⟨fun s s' hcfg hn hsrc => ?_, fun s s' hcfg hn hl hsrc hmin => ?_⟩
  · have h : SameBuffer s s' := ⟨hcfg, hn, hsrc⟩
    exact ⟨_, _, exec_decode s, exec_decode s', h.nextDraw.decodeDone _ _⟩
  · have h : SameOperands s s' := ⟨⟨hcfg, hn, hsrc⟩, hl, hmin⟩
    exact ⟨_, _, exec_embed s, exec_embed s', h.nextDraw.embedDone _ _⟩

end Sys2Proof.Machine
end

section
/-! PROOFS. The scanner in micro-steps (41_frame_codec R126): its registers after every bit, and that it ends as `scan` does. -/

namespace Sys2Proof.Machine

/-! ## The group in hand -/

/-- The first `j` bits of group `g`, in time order (41_frame_codec R124). -/
def groupBits (buf : Nat → Byte) (g j : Nat) : List Bool := (List.range j).map fun q => readLSB (buf (8 * g + q))

theorem groupBits_succ (buf : Nat → Byte) (g j : Nat) :
    groupBits buf g (j + 1) = groupBits buf g j ++ [readLSB (buf (8 * g + j))] := by
  simp [groupBits, List.range_succ]

theorem serialByte_concat (sh : Byte) (ts : List Bool) (t : Bool) :
    serialByte sh (ts ++ [t]) = shiftIn (serialByte sh ts) t := by
  induction ts generalizing sh with
  | nil => rfl
  | cons b ts ih => exact ih (shiftIn sh b)

/-- Eight bits through the deserialiser make the group's byte (40_packer R110, 41_frame_codec R124). -/
theorem serialByte_groupBits_eight (buf : Nat → Byte) (g : Nat) : serialByte 0 (groupBits buf g 8) = groupByte buf g := by
  have bits : ∀ s0 s1 s2 s3 s4 s5 s6 s7 : Bool,
      serialByte 0 [s0, s1, s2, s3, s4, s5, s6, s7] = byteOf8 s0 s1 s2 s3 s4 s5 s6 s7 := by
    decide +kernel
  exact bits ..

/-! ## The bytes kept for the marker test -/

/-- `pfx` after `len` accumulated groups: the first three of them (41_frame_codec R126). -/
structure Pfx.Holds (p : Pfx) (buf : Nat → Byte) (len : Nat) : Prop where
  b0 : 0 < len → p.b0 = groupByte buf 0
  b1 : 1 < len → p.b1 = groupByte buf 1
  b2 : 2 < len → p.b2 = groupByte buf 2

theorem Pfx.holds_zero (p : Pfx) (buf : Nat → Byte) : p.Holds buf 0 := ⟨by omega, by omega, by omega⟩

theorem Pfx.Holds.put {p : Pfx} {buf : Nat → Byte} {len : Nat} (h : p.Holds buf len) :
    (p.put len (groupByte buf len)).Holds buf (len + 1) := by
  match len, h with
  | 0, _ => exact ⟨fun _ => rfl, by omega, by omega⟩
  | 1, h => exact ⟨fun _ => h.b0 (by omega), fun _ => rfl, by omega⟩
  | 2, h => exact ⟨fun _ => h.b0 (by omega), fun _ => h.b1 (by omega), fun _ => rfl⟩
  | k + 3, h => exact ⟨fun _ => h.b0 (by omega), fun _ => h.b1 (by omega), fun _ => h.b2 (by omega)⟩

/-- The engine's marker test is the classifier's (41_frame_codec R127, R128). -/
theorem Pfx.Holds.hasMarker_eq {w : Work} {buf : Nat → Byte} (h : w.pfx.Holds buf w.accLen.toNat) (c : Params) :
    w.hasMarker c = hasMarker c (groupBytes buf 0 w.accLen.toNat) := by
  rw [Bool.eq_iff_iff, hasMarker_groupBytes]
  simp only [Work.hasMarker, Params.marker, Bool.and_eq_true, decide_eq_true_eq, beq_iff_eq, List.cons.injEq, and_true]
  refine and_congr_right fun hlen => ?_
  rw [h.b0 (by omega), h.b1 (by omega), h.b2 (by omega)]

/-! ## The scanner's registers -/

/-- The registers before bit `j` of group `g`: the groups before are accumulated and none is the terminator, and `sh` holds the bits
of the group in hand (41_frame_codec R126). -/
structure Work.Scanning (buf : Nat → Byte) (n : Nat) (w : Work) : Prop where
  acc     : w.accLen = w.g
  group   : w.g.toNat ≤ capacity n
  inGroup : w.j ≠ 0 → w.g.toNat < capacity n
  nonzero : ∀ k, k < w.g.toNat → groupByte buf k ≠ terminator
  pfx     : w.pfx.Holds buf w.g.toNat
  bits    : w.sh = serialByte 0 (groupBits buf w.g.toNat w.j.toNat)

/-- The registers when phase SCAN is left: what `scan` answers (41_frame_codec R125, R126). -/
structure Work.Scanned (buf : Nat → Byte) (n : Nat) (w : Work) : Prop where
  ends : Machine.scan buf n = (w.scan, groupBytes buf 0 w.accLen.toNat)
  pfx  : w.pfx.Holds buf w.accLen.toNat

section
variable {buf : Nat → Byte} {n : Nat} {w : Work}

theorem Work.Scanned.scan_eq (h : w.Scanned buf n) : (Machine.scan buf n).1 = w.scan := by rw [h.ends]

theorem Work.Scanned.hasMarker_eq (h : w.Scanned buf n) (c : Params) :
    Machine.hasMarker c (Machine.scan buf n).2 = w.hasMarker c := by
  rw [h.ends, h.pfx.hasMarker_eq]

theorem Work.Scanning.start (buf : Nat → Byte) (n : Nat) (w : Work) : w.start.Scanning buf n where
  acc := rfl
  group := Nat.zero_le _
  inGroup h := absurd rfl h
  nonzero _ h := absurd h (Nat.not_lt_zero _)
  pfx := Pfx.holds_zero ..
  bits := rfl

/-- The next bit enters the deserialiser. -/
theorem Work.Scanning.shiftIn_eq (h : w.Scanning buf n) :
    shiftIn w.sh (readLSB (buf (8 * w.g.toNat + w.j.toNat))) = serialByte 0 (groupBits buf w.g.toNat (w.j.toNat + 1)) := by
  rw [groupBits_succ, serialByte_concat, ← h.bits]

/-- No complete group is left. -/
theorem Work.Scanning.exhausted (h : w.Scanning buf n) (hn : n < 8 * (w.g.toNat + 1)) :
    Work.Scanned buf n { w with scan := .exhausted } := by
  have hg : capacity n = w.g.toNat := by
    have := h.group
    unfold capacity at *
    omega
  have hpfx := h.pfx
  rw [← h.acc] at hpfx
  exact ⟨by rw [scan_exhausted (hg ▸ h.nonzero), hg, h.acc], hpfx⟩

/-- A complete group that is the terminator. -/
theorem Work.Scanning.terminated (h : w.Scanning buf n) (hg : w.g.toNat < capacity n)
    (ht : groupByte buf w.g.toNat = terminator) (sh : Byte) :
    Work.Scanned buf n { w with j := 0, sh := sh, scan := .terminated } := by
  have hpfx := h.pfx
  rw [← h.acc] at hpfx
  exact ⟨by rw [scan_terminated hg ht h.nonzero, h.acc], hpfx⟩

theorem capacity_lt_word (x : Word) : capacity x.toNat < 2 ^ 32 := by
  have := x.isLt
  unfold capacity
  omega

/-- A complete group that is accumulated. -/
theorem Work.Scanning.nextGroup {x : Word} (h : w.Scanning buf x.toNat) (hg : w.g.toNat < capacity x.toNat)
    (ht : groupByte buf w.g.toNat ≠ terminator) :
    Work.Scanning buf x.toNat { w with
      j := 0, sh := 0, pfx := w.pfx.put w.accLen.toNat (groupByte buf w.g.toNat), accLen := w.accLen + 1, g := w.g + 1 } := by
  have hg' : (w.g + 1).toNat = w.g.toNat + 1 := toNat_add_one_of_lt (n := x) (Nat.lt_of_lt_of_le hg (Nat.div_le_self ..))
  refine ⟨by rw [h.acc], ?_, fun hj => absurd rfl hj, fun k hk => ?_, ?_, rfl⟩
  · dsimp only; omega
  · dsimp only at hk
    rcases Nat.lt_succ_iff_lt_or_eq.1 (hg' ▸ hk) with hk | rfl
    · exact h.nonzero k hk
    · exact ht
  · dsimp only; rw [hg', h.acc]; exact h.pfx.put

/-- A bit inside a group. -/
theorem Work.Scanning.nextBit (h : w.Scanning buf n) (hg : w.g.toNat < capacity n) (hj : w.j ≠ 7) :
    Work.Scanning buf n { w with
      j := w.j + 1, sh := shiftIn w.sh (readLSB (buf (8 * w.g.toNat + w.j.toNat))) } := by
  have hj' : (w.j + 1).toNat = w.j.toNat + 1 := by bv_omega
  exact ⟨h.acc, h.group, fun _ => hg, h.nonzero, h.pfx, by rw [h.shiftIn_eq, hj']⟩

end

end Sys2Proof.Machine
end

section
/-! PROOFS. The engine form against the atomic form (41_frame_codec R140): what holds before each micro-step of a command that no
input disturbs, and that each micro-step brings it nearer to the state `exec` gives. -/

namespace Sys2Proof.Machine

/-! ## A block at work on a command -/

/-- The job is a command accepted in `s` that no input has disturbed. -/
structure Job.AcceptedIn (s : State) (job : Job) : Prop where
  n         : job.n = s.bufLen
  l         : job.l = s.msgInLen
  disturbed : job.disturbed = false
  draw      : job.draw = s.draws

/-- The block `s` while it performs `job`, DST and MOUT being as given. The model's counters and the host's queues are those of `r`
(logs 3, 5, 9). -/
def State.atWork (s r : State) (job : Job) (dst mout : Memory) : State :=
  { s with
    status := { s.status with done := false }
    engine := .running job
    dst := dst
    mout := mout
    draws := r.draws
    sched := r.sched
    inbox := r.inbox
    outbox := r.outbox }

/-- The packer command of a phase PRIM. -/
def Prim.instr : Prim → Instr
  | .bitsof => .bitsof
  | .byteof => .byteof
  | .wrlsb  => .wrlsb
  | .rdlsb  => .rdlsb

/-- The codec command of a phase SCAN. -/
def Codec.instr : Codec → Instr
  | .embed  => .embed
  | .decode => .decode

/-- EMBED goes on to phase WRITE: the lengths have passed their check, SRC holds no frame, and the frame fits
(41_frame_codec R131). -/
structure State.EmbedFits (s : State) : Prop where
  n        : s.n ≤ s.cfg.bufDepth
  l        : s.l ≤ s.cfg.minDepth
  noFrame  : ¬ s.holdsFrame
  capacity : required s.l ≤ capacity s.n

/-- The serialiser's register before frame bit `i`: inside a group, the frame byte in hand less the bits already out
(40_packer R110). -/
def State.SerialAt (s : State) (i : Nat) (sh : Byte) : Prop :=
  i < 8 * required s.l → i % 8 ≠ 0 → sh = s.frameByte s.l (i / 8) <<< (i % 8)

/-- What holds before a micro-step of command `i`, accepted in `s`, phase by phase: the job's registers, DST and MOUT
(41_frame_codec R126, R134, R140). -/
inductive Progress (s : State) : Instr → Job → Memory → Memory → Prop where
  | prim {job : Job} (op : Prim) (hs : job.stage = .prim op) (hj : job.AcceptedIn s) :
      Progress s op.instr job s.dst s.mout
  | scan {job : Job} (c : Codec) (hs : job.stage = .scan c) (hj : job.AcceptedIn s) (hw : job.work.Scanning s.sample s.n) :
      Progress s c.instr job s.dst s.mout
  | capchk {job : Job} (hs : job.stage = .capchk) (hj : job.AcceptedIn s) (hn : s.n ≤ s.cfg.bufDepth)
      (hl : s.l ≤ s.cfg.minDepth) (hw : job.work.Scanned s.sample s.n) :
      Progress s .embed job s.dst s.mout
  | write {job : Job} (hs : job.stage = .write) (hj : job.AcceptedIn s) (hf : s.EmbedFits)
      (hw : job.work.Scanned s.sample s.n) (hi : job.work.i.toNat < s.n)
      (hsh : s.SerialAt job.work.i.toNat job.work.sh) :
      Progress s .embed job (Memory.fill s.embedded job.work.i.toNat s.dst) s.mout
  | output {job : Job} (msg : List Byte) (hs : job.stage = .output) (hj : job.AcceptedIn s) (hn : s.n ≤ s.cfg.bufDepth)
      (hr : decodeResult s.cfg s.sample s.n = .success msg) (hlen : job.work.accLen.toNat - 3 = msg.length)
      (hk : job.work.k.toNat ≤ msg.length) :
      Progress s .decode job s.dst (Memory.fill (fun k => msg.getD k 0) job.work.k.toNat s.mout)

/-- How many micro-steps follow phase SCAN at most: CAPCHK and the buffer, or the message and `finish` (70_reset R191). -/
def Codec.stepsAfterScan (c : Codec) (n : Nat) : Nat :=
  match c with
  | .embed  => 1 + n
  | .decode => capacity n

/-- How many micro-steps a job can still take at most (70_reset R191). -/
def Job.left (job : Job) : Nat :=
  match job.stage with
  | .prim _ => 1
  | .scan c => 8 * (capacity job.n.toNat - job.work.g.toNat) - job.work.j.toNat + 1 + c.stepsAfterScan job.n.toNat
  | .capchk => 1 + job.n.toNat
  | .write => job.n.toNat - job.work.i.toNat
  | .output => capacity job.n.toNat - job.work.k.toNat

/-- The command has ended as in the atomic form, but for the model's counters and the host's queues. -/
def AtomicEnd (s : State) (i : Instr) (t : State) : Prop :=
  ∃ e, t.busy = false ∧ exec i s = .next e ∧ SameButTraffic e t

/-- The state after a micro-step of `job`: at work with fewer micro-steps left, or at the end. -/
def Advances (s r : State) (i : Instr) (job : Job) (t : State) : Prop :=
  (∃ job' dst mout, t = s.atWork r job' dst mout ∧ Progress s i job' dst mout ∧ job'.left < job.left) ∨ AtomicEnd s i t

section
variable {s : State} {job : Job}

theorem Job.AcceptedIn.n_eq (h : job.AcceptedIn s) : job.n.toNat = s.n := congrArg BitVec.toNat h.n

theorem Job.AcceptedIn.l_eq (h : job.AcceptedIn s) : job.l.toNat = s.l := congrArg BitVec.toNat h.l

/-- Only the phase, the registers and the slots change while a command goes on. -/
theorem Job.AcceptedIn.update (h : job.AcceptedIn s) (st : Stage) (w : Work) (k : Nat) :
    Job.AcceptedIn s { job with stage := st, work := w, slots := k } := ⟨h.n, h.l, h.disturbed, h.draw⟩

/-- An undisturbed command ends as the atomic form does, if that finishes with the same code and fields from the same outputs. -/
theorem Job.AcceptedIn.atomicEnd (h : job.AcceptedIn s) {i : Instr} {a t : State} {c : Code} {st : Option ScanState} {p : Bool}
    (he : exec i s = .next (a.finish s.draws c st p))
    (ht : SameButTraffic (a.finish s.draws c st p) (t.finish s.draws c st p)) : AtomicEnd s i (t.finishJob job c st p) := by
  rw [State.finishJob_of_quiet h.disturbed, h.draw]
  exact ⟨_, rfl, he, ht⟩

/-! ## Phase PRIM -/

theorem exec_prim (s : State) (op : Prim) : exec op.instr s = .next (s.packerDone (s.primResult op)) := by
  cases op <;> rfl

theorem State.primResult_atWork (s r : State) (job : Job) (dst mout : Memory) (op : Prim) :
    (s.atWork r job dst mout).primResult op = s.primResult op := by
  cases op <;> rfl

theorem Job.AcceptedIn.primStep (h : job.AcceptedIn s) (r : State) (op : Prim) :
    AtomicEnd s op.instr ((s.atWork r job s.dst s.mout).primStep job op) := by
  unfold State.primStep
  rw [State.primResult_atWork]
  exact h.atomicEnd (exec_prim s op) rfl

/-! ## Phase SCAN -/

/-- A frame is found exactly when the scanner's registers say so (41_frame_codec R127). -/
theorem State.holdsFrame_iff_scanned {w : Work} (hw : w.Scanned s.sample s.n) :
    s.holdsFrame ↔ w.scan = .terminated ∧ w.hasMarker s.cfg = true := by
  rw [State.holdsFrame_iff, hw.scan_eq, hw.hasMarker_eq]

/-- What a decode answers, from the scanner's registers (41_frame_codec R127). -/
theorem decodeResult_scanned {w : Work} (hw : w.Scanned s.sample s.n) :
    decodeResult s.cfg s.sample s.n = classify s.cfg w.scan (groupBytes s.sample 0 w.accLen.toNat) := by
  rw [decodeResult_eq, hw.ends]

theorem exec_decode_of {e : State} (h : s.nextDraw.decodeDone s.draws = e) : exec .decode s = .next e := congrArg _ h

theorem exec_embed_of {e : State} (h : s.nextDraw.embedDone s.draws = e) : exec .embed s = .next e := congrArg _ h

/-- DECODE leaves the scan: to phase OUTPUT with a message, else to the end (41_frame_codec R129). -/
theorem Job.AcceptedIn.leaveScan_decode (h : job.AcceptedIn s) (r : State) {w : Work} (hs : job.stage = .scan .decode)
    (hn : s.n ≤ s.cfg.bufDepth) (hw : w.Scanned s.sample s.n) :
    Advances s r .decode job ((s.atWork r job s.dst s.mout).leaveScan job .decode w) := by
  have hr := decodeResult_scanned hw
  have hm : hasMarker s.cfg (groupBytes s.sample 0 w.accLen.toNat) = w.hasMarker s.cfg := (hw.pfx.hasMarker_eq _).symm
  have hends : w.scan = .terminated ∨ w.scan = .exhausted := hw.scan_eq ▸ scan_ends s.sample s.n
  have noMessage : decodeResult s.cfg s.sample s.n = .noMessage → AtomicEnd s .decode
      (((s.atWork r job s.dst s.mout).decodeFailed job.draw (capacity job.n.toNat)).finishJob job .noMessage (some w.scan)
        (w.hasMarker s.cfg)) := fun hr => by
    rw [h.n_eq, h.draw, ← hw.scan_eq, ← hw.hasMarker_eq]
    exact h.atomicEnd (exec_decode_of (State.decodeDone_noMessage (s := s.nextDraw) hn hr _)) rfl
  have hcfg : (s.atWork r job s.dst s.mout).cfg = s.cfg := rfl
  simp only [State.leaveScan, hcfg]
  obtain hst | hst := hends <;> cases hp : w.hasMarker s.cfg <;> simp only [hst, classify, hm, hp] at hr noMessage ⊢
  · exact .inr (noMessage hr)
  · refine .inl ⟨_, _, _, rfl, .output _ rfl (h.update _ _ _) hn hr ?_ (Nat.zero_le _), ?_⟩
    · simp [length_groupBytes]
    · simp [Job.left, hs, Codec.stepsAfterScan]
  · exact .inr (noMessage hr)
  · rw [h.n_eq, h.draw]
    exact .inr (h.atomicEnd (exec_decode_of (State.decodeDone_malformed (s := s.nextDraw) hn hr _)) rfl)

/-- The scan is left with the lengths checked. -/
theorem Job.AcceptedIn.leaveScan (h : job.AcceptedIn s) (r : State) {c : Codec} {w : Work} (hs : job.stage = .scan c)
    (hb : s.badArg job c = false) (hw : w.Scanned s.sample s.n) :
    Advances s r c.instr job ((s.atWork r job s.dst s.mout).leaveScan job c w) := by
  cases c with
  | decode => exact h.leaveScan_decode r hs (h.n_eq ▸ State.badArg_eq_false_decode.1 hb) hw
  | embed =>
    obtain ⟨hn, hl⟩ := State.badArg_eq_false_embed.1 hb
    refine .inl ⟨_, _, _, rfl, .capchk rfl (h.update _ _ _) (h.n_eq ▸ hn) (h.l_eq ▸ hl) hw, ?_⟩
    simp only [Job.left, hs, Codec.stepsAfterScan]
    omega

/-- A length above its depth ends the command at once (60_exceptions R163). -/
theorem Job.AcceptedIn.badArg (h : job.AcceptedIn s) (r : State) {c : Codec} (hb : s.badArg job c = true) :
    AtomicEnd s c.instr ((s.atWork r job s.dst s.mout).finishJob job .badArg none false) := by
  cases c with
  | decode =>
    have hn : s.cfg.bufDepth < s.n := by simpa [State.badArg, h.n_eq] using hb
    exact h.atomicEnd (exec_decode_of (State.decodeDone_badArg (s := s.nextDraw) hn _)) rfl
  | embed =>
    have hn : s.cfg.bufDepth < s.n ∨ s.cfg.minDepth < s.l := by simpa [State.badArg, h.n_eq, h.l_eq] using hb
    exact h.atomicEnd (exec_embed_of (State.embedDone_badArg (s := s.nextDraw) hn _)) rfl

theorem Job.AcceptedIn.scanStep (h : job.AcceptedIn s) (r : State) {c : Codec} (hs : job.stage = .scan c)
    (hw : job.work.Scanning s.sample s.n) : Advances s r c.instr job ((s.atWork r job s.dst s.mout).scanStep job c) := by
  have hsample : (s.atWork r job s.dst s.mout).sample = s.sample := rfl
  have hbad : (s.atWork r job s.dst s.mout).badArg job c = s.badArg job c := by cases c <;> rfl
  have hn := h.n_eq
  simp only [State.scanStep, hsample, hbad, hw.shiftIn_eq]
  split
  · next hb => exact .inr (h.badArg r hb)
  next hb =>
  have hb : s.badArg job c = false := by simpa using hb
  split
  · next hfull => exact h.leaveScan r hs hb (hw.exhausted (hn ▸ hfull.2))
  next hroom =>
  have hg : job.work.g.toNat < capacity s.n := by
    by_cases hj : job.work.j = 0
    · have : ¬ s.n < 8 * (job.work.g.toNat + 1) := fun hlt => hroom ⟨hj, hn ▸ hlt⟩
      unfold capacity; omega
    · exact hw.inGroup hj
  split
  · next hj =>
    rw [hj, show (7 : BitVec 3).toNat + 1 = 8 from rfl, serialByte_groupBits_eight]
    split
    · next ht => exact h.leaveScan r hs hb (hw.terminated hg ht _)
    · next ht =>
      refine .inl ⟨_, _, _, rfl, .scan c hs (h.update _ _ _) (hw.nextGroup hg ht), ?_⟩
      have hg' : (job.work.g + 1).toNat = job.work.g.toNat + 1 :=
        toNat_add_one_of_lt (n := job.n) (by unfold capacity at hg; omega)
      have hj0 : (0 : BitVec 3).toNat = 0 := rfl
      simp only [Job.left, hs, hj, hg', hn, hj0, show (7 : BitVec 3).toNat = 7 from rfl]
      omega
  · next hj =>
    rw [← hw.shiftIn_eq]
    refine .inl ⟨_, _, _, rfl, .scan c hs (h.update _ _ _) (hw.nextBit hg hj), ?_⟩
    have hj' : (job.work.j + 1).toNat = job.work.j.toNat + 1 := by bv_omega
    simp only [Job.left, hs, hj', hn]
    omega

/-! ## Phase CAPCHK -/

/-- The duplicate-frame check, then the capacity check (41_frame_codec R132, R133). -/
theorem Job.AcceptedIn.capchkStep (h : job.AcceptedIn s) (r : State) (hs : job.stage = .capchk) (hn : s.n ≤ s.cfg.bufDepth)
    (hl : s.l ≤ s.cfg.minDepth) (hw : job.work.Scanned s.sample s.n) :
    Advances s r .embed job ((s.atWork r job s.dst s.mout).capchkStep job) := by
  have hcfg : (s.atWork r job s.dst s.mout).cfg = s.cfg := rfl
  have hframe := State.holdsFrame_iff_scanned hw
  simp only [State.capchkStep, hcfg, h.n_eq, h.l_eq]
  split
  · next hf =>
    rw [hf.1, hf.2]
    exact .inr (h.atomicEnd (exec_embed_of (State.embedDone_alreadyEncoded (s := s.nextDraw) hn hl (hframe.2 hf) _)) rfl)
  next hnone =>
  have hnone : ¬ s.holdsFrame := hframe.not.2 hnone
  split
  · next hc =>
    rw [← hw.scan_eq, ← hw.hasMarker_eq]
    exact .inr (h.atomicEnd (exec_embed_of (State.embedDone_tooLarge (s := s.nextDraw) hn hl hnone hc _)) rfl)
  · next hc =>
    have hc : required s.l ≤ capacity s.n := Nat.le_of_not_lt hc
    have hpos : 0 < s.n := by unfold required capacity at hc; omega
    refine .inl ⟨_, _, _, rfl, .write rfl (h.update _ _ _) ⟨hn, hl, hnone, hc⟩ ⟨hw.ends, hw.pfx⟩ hpos ?_, ?_⟩
    · exact fun _ h0 => absurd rfl h0
    · simp [Job.left, hs]

/-! ## Phase WRITE -/

/-- The bit the serialiser emits next (40_packer R100, R110). -/
theorem shiftOutBit_shiftLeft (b : Byte) {q : Nat} (hq : q < 8) : shiftOutBit (b <<< q) = b.getLsbD (7 - q) := by
  rw [shiftOutBit, BitVec.getLsbD_shiftLeft]
  simp [show ¬ 7 < q by omega]

/-- The buffer EMBED writes, from the engine's frame byte (41_frame_codec R134). -/
theorem State.embedded_eq (s : State) (i : Nat) : s.embedded i =
    if i < 8 * required s.l then writeBitToLSB (s.sample i) ((s.frameByte s.l (i / 8)).getLsbD (7 - i % 8)) else s.sample i :=
  embedSample_eq s s.l i

section
variable {i : Nat} {r : State} {dst mout : Memory}

/-- At a group's start the serialiser loads the frame byte, so its register is known at every bit (40_packer R110). -/
theorem State.SerialAt.serialReg_eq (hsh : s.SerialAt i job.work.sh) (hl : job.l.toNat = s.l) (hi : i < 8 * required s.l) :
    (s.atWork r job dst mout).serialReg job i = s.frameByte s.l (i / 8) <<< (i % 8) := by
  unfold State.serialReg
  split
  · next h0 => rw [h0, hl, BitVec.shiftLeft_zero]; rfl
  · next h0 => exact hsh hi h0

/-- The value phase WRITE puts in cell `i` is the one of EMBED's buffer (41_frame_codec R134). -/
theorem State.SerialAt.cell_eq (hsh : s.SerialAt i job.work.sh) (hl : job.l.toNat = s.l) :
    (if i < 8 * required s.l then
      writeBitToLSB (s.sample i) (shiftOutBit ((s.atWork r job dst mout).serialReg job i)) else s.sample i) = s.embedded i := by
  rw [s.embedded_eq]
  split
  · next hin => rw [hsh.serialReg_eq hl hin, shiftOutBit_shiftLeft _ (Nat.mod_lt _ (by omega))]
  · rfl

/-- The serialiser's register after frame bit `i`. -/
theorem State.SerialAt.next (hsh : s.SerialAt i job.work.sh) (hl : job.l.toNat = s.l) : s.SerialAt (i + 1)
    (if i < 8 * required s.l then shiftOut ((s.atWork r job dst mout).serialReg job i) else job.work.sh) := by
  intro hin hq
  have hin : i < 8 * required s.l := by omega
  rw [if_pos hin, hsh.serialReg_eq hl hin, shiftOut, ← BitVec.shiftLeft_add, show (i + 1) / 8 = i / 8 by omega,
    show (i + 1) % 8 = i % 8 + 1 by omega]

end

theorem State.setCell_dst_atWork (s r : State) (job : Job) (dst mout : Memory) (a : Nat) (v : Byte) :
    (s.atWork r job dst mout).setCell .dst a v = s.atWork r job (dst.write a v) mout := rfl

/-- The cell this micro-step writes is the one EMBED's buffer has there, and the next has its part of the frame byte. -/
theorem Job.AcceptedIn.writeStep (h : job.AcceptedIn s) (r : State) (hs : job.stage = .write) (hf : s.EmbedFits)
    (hw : job.work.Scanned s.sample s.n) (hi : job.work.i.toNat < s.n)
    (hsh : s.SerialAt job.work.i.toNat job.work.sh) :
    Advances s r .embed job ((s.atWork r job (Memory.fill s.embedded job.work.i.toNat s.dst) s.mout).writeStep job) := by
  have hi' : (job.work.i + 1).toNat = job.work.i.toNat + 1 := toNat_add_one_of_lt (n := job.n) (h.n_eq.symm ▸ hi)
  generalize hidx : job.work.i.toNat = i at *
  have hsample : (s.atWork r job (Memory.fill s.embedded i s.dst) s.mout).sample = s.sample := rfl
  have hcfg : (s.atWork r job (Memory.fill s.embedded i s.dst) s.mout).cfg = s.cfg := rfl
  simp only [State.writeStep, hidx, hsample, hcfg, h.n_eq, h.l_eq, hsh.cell_eq h.l_eq]
  split
  · next hnext =>
    refine .inl ⟨_, Memory.fill s.embedded (i + 1) s.dst, _, rfl, ?_, ?_⟩
    · rw [← hi']
      exact .write hs (h.update _ _ _) hf ⟨hw.ends, hw.pfx⟩ (hi' ▸ hnext) (hi' ▸ hsh.next h.l_eq)
    · simp only [Job.left, hs, hi', hidx, h.n_eq]
      omega
  · next hlast =>
    have hlast : s.n = i + 1 := by omega
    rw [← hw.scan_eq, ← hw.hasMarker_eq]
    refine .inr (h.atomicEnd (exec_embed_of (State.embedDone_success (s := s.nextDraw) hf.n hf.l hf.noFrame hf.capacity _)) ?_)
    have hmem : (Memory.fill s.embedded i s.dst).write i (s.embedded i) = Memory.fill s.embedded s.n s.dst := by
      rw [hlast]; rfl
    rw [State.setCell_dst_atWork, hmem]
    rfl

/-! ## Phase OUTPUT -/

/-- A scan accumulates the first groups of the buffer, some number of them (41_frame_codec R125). -/
theorem scan_bytes (buf : Nat → Byte) (n : Nat) : ∃ len, (scan buf n).2 = groupBytes buf 0 len := by
  obtain ⟨len, -, hs, -⟩ | ⟨hs, -⟩ := scan_cases buf n
  · exact ⟨len, by rw [hs]⟩
  · exact ⟨capacity n, by rw [hs]⟩

/-- Byte `k` of the decoded message is group `3 + k` (41_frame_codec R127). -/
theorem getD_of_decodeResult {c : Params} {buf : Nat → Byte} {n : Nat} {msg : List Byte}
    (h : decodeResult c buf n = .success msg) {k : Nat} (hk : k < msg.length) : msg.getD k 0 = groupByte buf (3 + k) := by
  obtain ⟨-, -, rfl⟩ := (decodeResult_success_iff ..).1 h
  obtain ⟨len, hacc⟩ := scan_bytes buf n
  rw [hacc] at hk ⊢
  have hk : 3 + k < len := by
    rw [List.length_drop, length_groupBytes] at hk
    omega
  simp [List.getD_eq_getElem?_getD, getElem?_groupBytes, hk]

/-- A message byte, or `finish` once all are out (41_frame_codec R140). -/
theorem Job.AcceptedIn.outputStep (h : job.AcceptedIn s) (r : State) {msg : List Byte} (hs : job.stage = .output)
    (hn : s.n ≤ s.cfg.bufDepth) (hr : decodeResult s.cfg s.sample s.n = .success msg)
    (hlen : job.work.accLen.toNat - 3 = msg.length) (hk : job.work.k.toNat ≤ msg.length) :
    Advances s r .decode job
      ((s.atWork r job s.dst (Memory.fill (fun k => msg.getD k 0) job.work.k.toNat s.mout)).outputStep job) := by
  simp only [State.outputStep, hlen]
  split
  · next hlt =>
    have hk' : (job.work.k + 1).toNat = job.work.k.toNat + 1 := toNat_add_one_of_lt (n := job.work.accLen) (by omega)
    have hcap := length_le_of_decodeResult hr
    have hp : Progress s .decode { job with work := { job.work with k := job.work.k + 1 } } s.dst
        (Memory.fill (fun k => msg.getD k 0) (job.work.k + 1).toNat s.mout) :=
      .output msg hs (h.update _ _ _) hn hr hlen (hk' ▸ hlt)
    rw [hk', Memory.fill, getD_of_decodeResult hr hlt] at hp
    refine .inl ⟨_, _, _, rfl, hp, ?_⟩
    simp only [Job.left, hs, hk', h.n_eq, capacity]
    omega
  · next hdone =>
    have hk : job.work.k.toNat = msg.length := by omega
    rw [hk]
    exact .inr (h.atomicEnd (exec_decode_of (State.decodeDone_success (s := s.nextDraw) hn hr _)) rfl)

/-- A micro-step brings the command nearer to the end of its atomic form (41_frame_codec R140). -/
theorem Progress.engineStep {i : Instr} {dst mout : Memory} (h : Progress s i job dst mout) (r : State) :
    Advances s r i job ((s.atWork r job dst mout).engineStep job) := by
  unfold State.engineStep
  cases h with
  | prim op hs hj => rw [hs]; exact .inr (hj.primStep r op)
  | scan c hs hj hw => rw [hs]; exact hj.scanStep r hs hw
  | capchk hs hj hn hl hw => rw [hs]; exact hj.capchkStep r hs hn hl hw
  | write hs hj hf hw hi hsh => rw [hs]; exact hj.writeStep r hs hf hw hi hsh
  | output msg hs hj hn hr hlen hk => rw [hs]; exact hj.outputStep r hs hn hr hlen hk

/-- Acceptance puts the command before its first micro-step (10_state R24). -/
theorem Progress.begin (s : State) (i : Instr) :
    ∃ job, s.begin i = s.atWork (s.begin i) job s.dst s.mout ∧ Progress s i job s.dst s.mout := by
  refine ⟨_, rfl, ?_⟩
  have hw := Work.Scanning.start s.sample s.n s.work
  cases i with
  | bitsof => exact .prim .bitsof rfl ⟨rfl, rfl, rfl, rfl⟩
  | byteof => exact .prim .byteof rfl ⟨rfl, rfl, rfl, rfl⟩
  | wrlsb => exact .prim .wrlsb rfl ⟨rfl, rfl, rfl, rfl⟩
  | rdlsb => exact .prim .rdlsb rfl ⟨rfl, rfl, rfl, rfl⟩
  | embed => exact .scan .embed rfl ⟨rfl, rfl, rfl, rfl⟩ hw
  | decode => exact .scan .decode rfl ⟨rfl, rfl, rfl, rfl⟩ hw

end

end Sys2Proof.Machine
end

section
/-! PROOFS. A well-behaved host beside a running command (20_memory R63, 41_frame_codec R140): its inputs touch the traffic only, so
the run ends as the atomic form does. -/

namespace Sys2Proof.Machine

/-! ## An input that disturbs nothing -/

/-- A register write that reaches no input of a running command is ignored (10_state R22, R43; 70_reset R185). -/
theorem State.hostWrite_quiet {u : State} (hb : u.busy = true) {off : Byte} (hq : isInputReg off = false) (v : Word) :
    u.hostWrite off v = .next u := by
  unfold isInputReg at hq
  unfold State.hostWrite
  cases hr : Reg.at off with
  | none => rfl
  | some reg =>
    rw [hr] at hq
    cases reg with
    | cmd => exact if_pos hb
    | bufLen | msgInLen | opa | opb => cases hq
    | status | msgOutLen | capacity | result | marker => rfl

/-- A byte write that reaches no input of a command is ignored (20_memory R55, R56). -/
theorem State.hostWriteByte_quiet {u : State} {sp : Space} {a : Nat} (hq : isInputCell u.cfg sp a = false) (v : Byte) :
    u.hostWriteByte sp a v = u := by
  cases sp with
  | src | min => exact if_neg (by simpa [isInputCell] using hq)
  | dst | mout => rfl

/-- While a command runs, a well-behaved input changes the traffic only, and leaves none pending but itself. -/
theorem State.perform_quiet {u : State} (hb : u.busy = true) {e : Event} (hq : e.quiet u.cfg = true) :
    ∃ t, u.perform e = .next t ∧ SameButTraffic u t ∧ ∀ x ∈ t.inbox, x = e ∨ x ∈ u.inbox := by
  have ignored : u.perform e = .next u →
      ∃ t, u.perform e = .next t ∧ SameButTraffic u t ∧ ∀ x ∈ t.inbox, x = e ∨ x ∈ u.inbox :=
    fun h => ⟨u, h, rfl, fun _ => .inr⟩
  cases e with
  | wr off v => exact ignored (State.hostWrite_quiet hb (by simpa [Event.quiet] using hq) v)
  | wrLast off => exact ignored (State.hostWrite_quiet hb (by simpa [Event.quiet] using hq) u.hostVar)
  | wrb sp a v => exact ignored (congrArg _ (State.hostWriteByte_quiet (by simpa [Event.quiet] using hq) v))
  | wrbLast sp a => exact ignored (congrArg _ (State.hostWriteByte_quiet (by simpa [Event.quiet] using hq) _))
  | rd off => exact ⟨_, rfl, rfl, fun _ => .inr⟩
  | rdb sp a => exact ⟨_, rfl, rfl, fun _ => .inr⟩
  | poll =>
    simp only [State.perform, hb, if_true]
    exact ⟨_, rfl, rfl, fun _ hx => List.mem_cons.1 hx⟩
  | reset => cases hq

/-! ## Runs that stay busy -/

theorem Reaches.zero (s : State) : Reaches 0 s s := rfl

theorem reaches_succ_iff {s s' : State} (h : step s = .next s') (k : Nat) (t : State) :
    Reaches (k + 1) s t ↔ Reaches k s' t := by
  have hcore : core.step s = .next s' := h
  simp only [Reaches, Host.Core.run, hcore]

/-- A run from `s` is busy until it comes to a state with `P`. -/
def BusyUntil (P : State → Prop) (s : State) : Prop :=
  ∃ k t, Reaches k s t ∧ P t ∧ ∀ m u, m < k → Reaches m s u → u.busy = true

theorem BusyUntil.here {P : State → Prop} {s : State} (h : P s) : BusyUntil P s :=
  ⟨0, s, .zero s, h, fun _ _ hm => absurd hm (Nat.not_lt_zero _)⟩

theorem BusyUntil.step {P : State → Prop} {s s' : State} (hb : s.busy = true) (hs : step s = .next s')
    (h : BusyUntil P s') : BusyUntil P s := by
  obtain ⟨k, t, hr, hp, hbusy⟩ := h
  refine ⟨k + 1, t, (reaches_succ_iff hs k t).2 hr, hp, fun m u hm hu => ?_⟩
  cases m with
  | zero => cases hu; exact hb
  | succ m => exact hbusy m u (Nat.lt_of_succ_lt_succ hm) ((reaches_succ_iff hs m u).1 hu)

/-! ## The run of a command -/

/-- The slots left for the host say nothing of the command's progress (log 9). -/
theorem Progress.slots {s : State} {i : Instr} {job : Job} {dst mout : Memory} (h : Progress s i job dst mout) (k : Nat) :
    Progress s i { job with slots := k } dst mout := by
  cases h with
  | prim op hs hj => exact .prim (job := { job with slots := k }) op hs (hj.update ..)
  | scan c hs hj hw => exact .scan (job := { job with slots := k }) c hs (hj.update ..) hw
  | capchk hs hj hn hl hw => exact .capchk (job := { job with slots := k }) hs (hj.update ..) hn hl hw
  | write hs hj hf hw hi hsh => exact .write (job := { job with slots := k }) hs (hj.update ..) hf hw hi hsh
  | output msg hs hj hn hr hlen hk => exact .output (job := { job with slots := k }) msg hs (hj.update ..) hn hr hlen hk

theorem AtomicEnd.idle {s t : State} {i : Instr} (h : AtomicEnd s i t) : t.busy = false := by
  obtain ⟨-, hb, -⟩ := h
  exact hb

theorem State.drawSlots_of_idle {s : State} (h : s.busy = false) : s.drawSlots = s := by
  obtain ⟨d, hd⟩ := s.busy_eq_false_iff.1 h
  simp only [State.drawSlots, hd]

/-- A command under way ends as in the atomic form, whatever a well-behaved host does meanwhile: each micro-step leaves fewer of
them, and each input leaves fewer slots before the next one (log 9). -/
theorem Progress.busyUntil {s : State} {i : Instr} {job : Job} {dst mout : Memory} (h : Progress s i job dst mout) (r : State)
    (hq : ∀ e ∈ r.inbox, e.quiet s.cfg = true) : BusyUntil (AtomicEnd s i) (s.atWork r job dst mout) := by
  by_cases hm : r.inbox = [] ∨ job.slots = 0
  · refine .step rfl (step_engine rfl hm) ?_
    rw [State.engineTurn]
    obtain ⟨job', dst', mout', ht, hp, hlt⟩ | hend := h.engineStep r
    · rw [ht]
      exact (hp.slots (Config.hostSlots s.cfg.unit r.sched)).busyUntil r.nextSched hq
    · rw [State.drawSlots_of_idle hend.idle]
      exact .here hend
  · obtain ⟨hne, hslots⟩ := not_or.1 hm
    obtain ⟨e, rest, hi⟩ := List.exists_cons_of_ne_nil hne
    rw [hi, List.forall_mem_cons] at hq
    obtain ⟨he, hrest⟩ := hq
    obtain ⟨t, ht, hsame, hin⟩ := State.perform_quiet
      (u := s.atWork (r.setInbox rest) { job with slots := job.slots - 1 } dst mout) rfl he
    refine .step rfl ((step_host (s := s.atWork r job dst mout) rfl hi hslots).trans ht) ?_
    rw [hsame]
    refine (h.slots (job.slots - 1)).busyUntil t fun x hx => ?_
    obtain rfl | hx := hin x hx
    · exact he
    · exact hrest x hx
termination_by (job.left, job.slots)
decreasing_by
  · exact .left _ _ hlt
  · exact .right _ (Nat.sub_one_lt hslots)

/-- Settles O54: acceptance puts the command before its first micro-step, and from there the run ends as in the atomic form. -/
theorem wellBehavedHostCannotTellForms : Obligations.WellBehavedHostCannotTellForms := by
  intro s i _ hq
  obtain ⟨job, hbegin, hp⟩ := Progress.begin s i
  have hrun := hp.busyUntil (s.begin i) hq
  rw [← hbegin] at hrun
  obtain ⟨k, t, hk, ⟨e, hidle, hexec, hsame⟩, hbusy⟩ := hrun
  exact ⟨k, t, e, hk, hidle, hexec, hsame, hbusy⟩

end Sys2Proof.Machine
end

section
/-! PROOFS. The decoder and the encoder over all 2^32 words (30_encoding R70, R71, R75), and what an illegal word does (R74). -/

namespace Sys2Proof.Machine

/-! ## Decode and encode -/

theorem toNat_rsvdOf (w : Word) : (rsvdOf w).toNat = w.toNat / 16 := by
  have hw := w.isLt
  rw [rsvdOf, BitVec.extractLsb'_toNat, Nat.shiftRight_eq_div_pow]
  omega

theorem toNat_opcodeOf (w : Word) : (opcodeOf w).toNat = w.toNat % 16 := by
  simp [opcodeOf]

/-- RSVD and OPCODE make up the whole command word (30_encoding R70). -/
theorem word_eq_of_fields {w v : Word} (hr : rsvdOf w = rsvdOf v) (ho : opcodeOf w = opcodeOf v) : w = v := by
  have hr := congrArg BitVec.toNat hr
  have ho := congrArg BitVec.toNat ho
  rw [toNat_rsvdOf, toNat_rsvdOf] at hr
  rw [toNat_opcodeOf, toNat_opcodeOf] at ho
  exact BitVec.eq_of_toNat_eq (by omega)

theorem decode_encode_of_roundTrip {i : Instr} (h : Laws.RoundTrip.Statement i) : decode (encode i) = .ok i := by
  obtain ⟨-, -, h⟩ := h
  exact h

theorem decode_encode (i : Instr) : decode (encode i) = .ok i := by
  cases i with
  | bitsof => exact decode_encode_of_roundTrip Laws.RoundTrip.bitsof
  | byteof => exact decode_encode_of_roundTrip Laws.RoundTrip.byteof
  | wrlsb => exact decode_encode_of_roundTrip Laws.RoundTrip.wrlsb
  | rdlsb => exact decode_encode_of_roundTrip Laws.RoundTrip.rdlsb
  | embed => exact decode_encode_of_roundTrip Laws.RoundTrip.embed
  | decode => exact decode_encode_of_roundTrip Laws.RoundTrip.decode

/-- Each test of the decode procedure that answers a command fixes both fields of the word (30_encoding R75). -/
theorem fields_of_decode {w : Word} {i : Instr} (h : decode w = .ok i) :
    rsvdOf w = rsvdOf (encode i) ∧ opcodeOf w = opcodeOf (encode i) := by
  unfold decode at h
  split_ifs at h with hr h1 h2 h3 h4 h8 h9 <;> cases h
  · exact ⟨not_not.1 hr, h1⟩
  · exact ⟨not_not.1 hr, h2⟩
  · exact ⟨not_not.1 hr, h3⟩
  · exact ⟨not_not.1 hr, h4⟩
  · exact ⟨not_not.1 hr, h8⟩
  · exact ⟨not_not.1 hr, h9⟩

theorem decode_eq_ok_iff (w : Word) (i : Instr) : decode w = .ok i ↔ w = encode i := by
  constructor
  · intro h
    obtain ⟨hr, ho⟩ := fields_of_decode h
    exact word_eq_of_fields hr ho
  · rintro rfl
    exact decode_encode i

/-- Settles O4: a word the decoder answers a command for has both fields of that command's own word. -/
theorem decodeExactlyEncodedWords : Obligations.DecodeExactlyEncodedWords :=
  fun w i _ => decode_eq_ok_iff w i

/-- Settles O3: six words are encodings, and each of the four illegal ones fails a test of the decode procedure. -/
theorem specWordsDecode : Obligations.SpecWordsDecode :=
  ⟨decode_encode .bitsof, decode_encode .byteof, decode_encode .wrlsb, decode_encode .rdlsb, decode_encode .embed,
    decode_encode .decode, by decide, by decide, by decide, by decide⟩

/-! ## An illegal word -/

/-- A command word of 30_encoding R74: a bit of RSVD is set, or OPCODE is none of the six codes. -/
def IllegalWord (w : Word) : Prop :=
  w.toNat / 16 ≠ 0 ∨ w.toNat % 16 ∈ [0x0, 0x5, 0x6, 0x7, 0xA, 0xB, 0xC, 0xD, 0xE, 0xF]

theorem not_illegalWord_encode (i : Instr) : ¬ IllegalWord (encode i) := by
  unfold IllegalWord
  cases i <;> decide

theorem decode_of_illegalWord {w : Word} (h : IllegalWord w) : ∃ e, decode w = .error e := by
  cases hw : decode w with
  | error e => exact ⟨e, rfl⟩
  | ok i =>
    obtain rfl := (decode_eq_ok_iff w i).1 hw
    exact absurd h (not_illegalWord_encode i)

/-- Acceptance of an illegal word is `finish(ILLEGAL)`, in either form (30_encoding R74, 60_exceptions R167). -/
theorem State.accept_error {w : Word} {e : DecodeError} (hw : decode w = .error e) (s : State) :
    s.accept w = .next (s.nextDraw.finish s.draws .illegal none false) := by
  simp only [State.accept, hw]

/-- A command that only takes a draw and finishes changes STATUS alone (60_exceptions R161 to R163, R167). -/
theorem OnlyStatus.finish_nextDraw (s : State) (d : Nat) (c : Code) (st : Option ScanState) (p : Bool) :
    OnlyStatus s (s.nextDraw.finish d c st p) :=
  ⟨⟨⟨rfl, rfl, rfl, rfl⟩, rfl, fun sp a => by simp, rfl, rfl, rfl, rfl, rfl, rfl⟩, rfl⟩

/-- Settles O5: no illegal word is an encoding, so the CMD write is an acceptance that finishes at once. -/
theorem illegalWordFinishesAtOnce : Obligations.IllegalWordFinishesAtOnce := by
  intro s w rest hb hi hw
  obtain ⟨e, he⟩ := decode_of_illegalWord hw
  have hs := (step_command hb hi).trans (State.accept_error he (s.setInbox rest))
  have hword : packStatus false true Code.illegal.bits (scanBits none) false = 0x000000F2 := by decide
  exact ⟨_, hs, ⟨rfl, hword⟩, .finish_nextDraw ..⟩

end Sys2Proof.Machine
end

section
/-! PROOFS. The host's `copy` on an idle block (30_encoding R77): two accesses per cell, for any list of cells. -/

namespace Sys2Proof.Machine

/-- The two accesses that copy one cell (30_encoding R77). -/
def copyCell (i : Nat) : List Event := [.rdb .dst i, .wrbLast .src i]

theorem hostCopy_eq (n : Nat) : hostCopy n = (List.range n).flatMap copyCell := rfl

/-- The host has read the byte `b`, and the accesses `rest` are still pending. -/
def State.hasRead (s : State) (b : Byte) (rest : List Event) : State :=
  { s with inbox := rest, outbox := s.outbox ++ [.byte b] }

/-- A byte read of an idle block, below the depth, returns the cell (20_memory R55). -/
theorem step_readByte {s : State} {sp : Space} {a : Nat} {rest : List Event} (hb : s.busy = false) (ha : a < s.cfg.depth sp)
    (hq : s.inbox = .rdb sp a :: rest) : step s = .next (s.hasRead (s.cell sp a) rest) := by
  rw [(hostByteAccess s rest sp a 0x00 hb).1 hq, if_pos ha]
  rfl

@[simp] theorem State.hasRead_setInbox (s : State) (b : Byte) (rest q : List Event) :
    (s.hasRead b rest).setInbox q = s.hasRead b q := rfl

/-- The byte the host writes back is the byte it has just read (log 19). -/
theorem State.hostVar_hasRead (s : State) (b : Byte) (rest : List Event) : (s.hasRead b rest).hostVar.setWidth 8 = b := by
  simp [State.hasRead, State.hostVar, Reading.toWord, zext32]

/-- The block after the host has copied cell `i`, with the accesses `rest` still pending. -/
def State.copied (s : State) (i : Nat) (rest : List Event) : State :=
  (s.setCell .src i (s.cell .dst i)).hasRead (s.cell .dst i) rest

theorem State.copied_cell (s : State) (i : Nat) (rest : List Event) (sp : Space) (a : Nat) :
    (s.copied i rest).cell sp a = if sp = .src ∧ a = i then s.cell .dst a else s.cell sp a := by
  calc (s.copied i rest).cell sp a
    _ = (s.setCell .src i (s.cell .dst i)).cell sp a := State.cell_eq_of_fields rfl rfl rfl rfl rfl rfl sp a
    _ = if sp = .src ∧ a = i then s.cell .dst i else s.cell sp a := s.cell_setCell ..
    _ = if sp = .src ∧ a = i then s.cell .dst a else s.cell sp a := ite_congr rfl (fun h => by rw [h.2]) fun _ => rfl

/-- The write back of a byte read puts it in SRC, below the depth (20_memory R55). -/
theorem step_writeBack {s : State} {i : Nat} {rest : List Event} (hb : s.busy = false) (hi : i < s.cfg.bufDepth) :
    step (s.hasRead (s.cell .dst i) (.wrbLast .src i :: rest)) = .next (s.copied i rest) := by
  have hidle : ∀ q, (s.hasRead (s.cell .dst i) q).busy = false := fun _ => hb
  rw [step_idle (hidle _) rfl, State.hasRead_setInbox, State.perform, State.hostVar_hasRead,
    State.hostWriteByte_idle (hidle _), if_pos ⟨.inl rfl, hi⟩]
  rfl

theorem reaches_copied {s : State} {i : Nat} {rest : List Event} (hb : s.busy = false) (hi : i < s.cfg.bufDepth)
    (hq : s.inbox = copyCell i ++ rest) {k : Nat} {t : State} (ht : Reaches k (s.copied i rest) t) : Reaches (k + 2) s t :=
  (reaches_succ_iff (step_readByte (sp := .dst) hb hi hq) _ t).2 ((reaches_succ_iff (step_writeBack hb hi) _ t).2 ht)

/-- What the host's copy of the cells `l` comes to: SRC holds DST's bytes there, and nothing else has changed. -/
structure CopyEnd (s : State) (l : List Nat) (t : State) : Prop where
  inbox  : t.inbox = []
  busy   : t.busy = false
  status : t.statusWord = s.statusWord
  bufLen : t.bufLen = s.bufLen
  cfg    : t.cfg = s.cfg
  cell   : ∀ sp a, t.cell sp a = if sp = .src ∧ a ∈ l then s.cell .dst a else s.cell sp a

/-- Copying a cell first and the others after it is copying them all: DST is as before all along. -/
theorem CopyEnd.cons {s t : State} {i : Nat} {l : List Nat} {rest : List Event} (h : CopyEnd (s.copied i rest) l t) :
    CopyEnd s (i :: l) t where
  inbox  := h.inbox
  busy   := h.busy
  status := h.status.trans (s.setCell_statusWord ..)
  bufLen := h.bufLen
  cfg    := h.cfg
  cell sp a := by
    rw [h.cell, s.copied_cell, s.copied_cell]
    by_cases hsp : sp = .src
    · by_cases hl : a ∈ l <;> simp [hsp, hl]
    · simp [hsp]

/-- The copy of any cells below BUF_DEPTH, in any order (30_encoding R77). -/
theorem reaches_copyEnd (l : List Nat) {s : State} (hb : s.busy = false) (hl : ∀ i ∈ l, i < s.cfg.bufDepth)
    (hq : s.inbox = l.flatMap copyCell) : ∃ t, Reaches (2 * l.length) s t ∧ CopyEnd s l t := by
  induction l generalizing s with
  | nil => exact ⟨s, .zero s, hq, hb, rfl, rfl, rfl, fun sp a => by simp⟩
  | cons i l ih =>
    rw [List.forall_mem_cons] at hl
    obtain ⟨hi, hl⟩ := hl
    obtain ⟨t, ht, hend⟩ := ih (s := s.copied i (l.flatMap copyCell)) hb hl rfl
    exact ⟨t, reaches_copied hb hi hq ht, hend.cons⟩

/-- Settles O52: the program copies the cells `0 .. n-1`, each in two steps. -/
theorem copyProgramCopies : Obligations.CopyProgramCopies := by
  intro s n hb hn hq
  have hl : ∀ i ∈ List.range n, i < s.cfg.bufDepth := fun i hi => (List.mem_range.1 hi).trans_le hn
  obtain ⟨t, ht, hend⟩ := reaches_copyEnd (List.range n) hb hl (hq.trans (hostCopy_eq n))
  rw [List.length_range] at ht
  refine ⟨t, ht, hend.inbox, hend.busy, hend.status, hend.bufLen, hend.cfg, fun i hi => ?_, fun i hi => ?_, ?_, ?_, ?_⟩
  · rw [hend.cell, if_pos ⟨rfl, List.mem_range.2 hi⟩]
  · rw [hend.cell, if_neg fun h => Nat.not_lt.2 hi (List.mem_range.1 h.2)]
  all_goals exact fun a => (hend.cell _ a).trans (if_neg fun h => nomatch h.1)

end Sys2Proof.Machine
end

section
/-! PROOFS. The packer's primitives as functions (40_packer R100 to R104, R109) and in their serial form (R110). -/

namespace Sys2Proof.Machine

/-! ## The bit stream (40_packer R100) -/

theorem bitsOf_singleton (b : Byte) : bitsOf [b] = bitsOfByte b := by
  simp [bitsOf]

theorem bitsOf_append (p q : List Byte) : bitsOf (p ++ q) = bitsOf p ++ bitsOf q :=
  List.flatMap_append

/-- Settles O11: bit `i` of the stream is bit `7 - (i mod 8)` of byte `floor(i / 8)`. -/
theorem bitsOfMsbFirst : Obligations.BitsOfMsbFirst := by
  refine ⟨rfl, fun bs => ⟨length_bitsOf_eq bs, fun m q b hq hb => ?_⟩⟩
  rw [getElem?_bitsOf_eq, show (8 * m + q) / 8 = m by omega, show (8 * m + q) % 8 = q by omega, hb, Option.map_some]

/-! ## The byte of eight bits (40_packer R101) -/

theorem toNat_byteOf8 (s0 s1 s2 s3 s4 s5 s6 s7 : Bool) : (byteOf8 s0 s1 s2 s3 s4 s5 s6 s7).toNat =
    128 * s0.toNat + 64 * s1.toNat + 32 * s2.toNat + 16 * s3.toNat + 8 * s4.toNat + 4 * s5.toNat + 2 * s6.toNat + s7.toNat := by
  revert s0 s1 s2 s3 s4 s5 s6 s7; decide +kernel

theorem byteOf_eq_none {l : List Bool} (h : l.length ≠ 8) : byteOf l = none := by
  unfold byteOf
  split
  · exact absurd rfl h
  · rfl

theorem exists_byteOf {l : List Bool} (h : l.length = 8) : ∃ b, byteOf l = some b :=
  match l, h with
  | [_, _, _, _, _, _, _, _], _ => ⟨_, rfl⟩

/-- Settles O12: eight bits are their number, and no other length has a byte. -/
theorem byteOfEightBitsOnly : Obligations.ByteOfEightBitsOnly :=
  ⟨fun _ _ _ _ _ _ _ _ => ⟨_, rfl, toNat_byteOf8 ..⟩, fun _ => byteOf_eq_none⟩

/-! ## The laws of the primitives (40_packer R109) -/

theorem bitsOfByte_byteOf8 (s0 s1 s2 s3 s4 s5 s6 s7 : Bool) :
    bitsOfByte (byteOf8 s0 s1 s2 s3 s4 s5 s6 s7) = [s0, s1, s2, s3, s4, s5, s6, s7] := by
  refine List.ext_getElem rfl fun q hq hq' => ?_
  rw [List.getElem_eq_iff, getElem?_bitsOfByte _ _ hq, getLsbD_byteOf8 _ _ _ _ _ _ _ _ _ hq, List.getD_eq_getElem _ _ hq']

/-- `byteOf` and `bitsOf` of one byte undo each other. -/
theorem byteOf_eq_some_iff (l : List Bool) (b : Byte) : byteOf l = some b ↔ bitsOf [b] = l := by
  constructor
  · intro h
    unfold byteOf at h
    split at h
    · cases h
      rw [bitsOf_singleton, bitsOfByte_byteOf8]
    · cases h
  · rintro rfl
    exact congrArg some (byteOf8_of_bits b)

theorem writeBitToLSB_and (s : Byte) (b : Bool) : writeBitToLSB s b &&& 0xFE = s &&& 0xFE := by
  refine BitVec.eq_of_getLsbD_eq fun k _ => ?_
  rw [BitVec.getLsbD_and, BitVec.getLsbD_and, getLsbD_writeBitToLSB]
  split
  · next h => simp [h]
  · rfl

theorem writeBitToLSB_readLSB (s : Byte) : writeBitToLSB s (readLSB s) = s := by
  refine BitVec.eq_of_getLsbD_eq fun k _ => ?_
  rw [getLsbD_writeBitToLSB, readLSB_eq]
  split
  · next h => rw [h]
  · rfl

theorem getElem?_wordSeq (w : Byte) (k : Nat) (h : k < 8) : (wordSeq w)[k]? = some (w.getLsbD k) := by
  simp [wordSeq, h]

/-- The register form loses nothing of an 8-bit sequence (40_packer R104). -/
theorem wordSeq_seqWord {l : List Bool} (h : l.length = 8) : wordSeq (seqWord l) = l := by
  refine List.ext_getElem h.symm fun k hk hk' => ?_
  rw [List.getElem_eq_iff, getElem?_wordSeq _ _ hk, getLsbD_seqWord _ _ hk, List.getD_eq_getElem _ _ hk']

/-! ## The registers the packer reads and writes -/

theorem extractLsb'_zext32 (b : Byte) : (zext32 b).extractLsb' 0 8 = b := by
  refine BitVec.eq_of_getLsbD_eq fun k hk => ?_
  simp [zext32_getLsbD, hk]

theorem zext32_getLsbD_of_le (b : Byte) {k : Nat} (h : 8 ≤ k) : (zext32 b).getLsbD k = false := by
  rw [zext32_getLsbD, BitVec.getLsbD_of_ge b k h]

theorem State.opaByte_getLsbD (s : State) {k : Nat} (h : k < 8) : s.opaByte.getLsbD k = s.opa.getLsbD k := by
  simp [State.opaByte, h]

theorem State.byteofResult_of {s : State} {b : Byte} (h : byteOf (wordSeq s.opaByte) = some b) : s.byteofResult = zext32 b := by
  unfold State.byteofResult
  rw [h]

/-- BYTEOF of a RESULT of BITSOF is the byte that BITSOF read (40_packer R109). -/
theorem State.byteofResult_of_bitsofResult {s t : State} (h : t.opa = s.bitsofResult) : t.byteofResult = zext32 s.opaByte := by
  have ht : t.opaByte = seqWord (bitsOf [s.opaByte]) := by
    rw [State.opaByte, h, State.bitsofResult, extractLsb'_zext32]
  refine State.byteofResult_of ?_
  rw [ht, wordSeq_seqWord (length_bitsOf_eq _), byteOf_eq_some_iff]

/-- Settles O13: the laws of the functions, and for the commands that OPA receives the register form of the bits. -/
theorem primitiveLaws : Obligations.PrimitiveLaws := by
  refine ⟨fun b => (byteOf_eq_some_iff _ b).2 rfl, fun t ht => ?_, bitsOf_append, readLSB_writeBitToLSB, writeBitToLSB_and,
    writeBitToLSB_readLSB, fun s => ⟨_, _, exec_bitsof s, exec_byteof _, ?_⟩⟩
  · obtain ⟨b, hb⟩ := exists_byteOf ht
    exact ⟨b, hb, (byteOf_eq_some_iff t b).1 hb⟩
  · exact State.byteofResult_of_bitsofResult (s := s) rfl

/-! ## The serial converter (40_packer R110) -/

/-- `k` steps of the serialiser that has emitted `q` bits of `b` emit the next `k`. -/
theorem serialBits_shiftLeft (b : Byte) {q k : Nat} (h : q + k ≤ 8) :
    serialBits k (b <<< q) = (List.range' q k).map fun i => b.getLsbD (7 - i) := by
  induction k generalizing q with
  | zero => rfl
  | succ k ih =>
    rw [serialBits, shiftOutBit_shiftLeft b (by omega), shiftOut, ← BitVec.shiftLeft_add, ih (by omega), List.range'_succ,
      List.map_cons]

theorem serialBits_eight (b : Byte) : serialBits 8 b = bitsOf [b] := by
  rw [bitsOf_singleton, bitsOfByte, List.range_eq_range', ← serialBits_shiftLeft b (by omega), BitVec.shiftLeft_zero]

theorem getLsbD_shiftIn_zero (sh : Byte) (t : Bool) : (shiftIn sh t).getLsbD 0 = t := by
  rw [shiftIn, BitVec.getLsbD_or, getLsbD_bit8]
  simp

theorem getLsbD_shiftIn_succ (sh : Byte) (t : Bool) {k : Nat} (h : k + 1 < 8) : (shiftIn sh t).getLsbD (k + 1) = sh.getLsbD k := by
  rw [shiftIn, BitVec.getLsbD_or, getLsbD_bit8, BitVec.getLsbD_shiftLeft]
  simp [h]

/-- The deserialiser holds the last bits it consumed, the latest in bit 0. -/
theorem getLsbD_serialByte (ts : List Bool) {k : Nat} (h : k < 8) : (serialByte 0 ts).getLsbD k = ts.reverse.getD k false := by
  induction ts using List.reverseRecOn generalizing k with
  | nil => simp [serialByte]
  | append_singleton ts t ih =>
    rw [serialByte_concat, List.reverse_concat]
    cases k with
    | zero => exact getLsbD_shiftIn_zero _ t
    | succ k => rw [getLsbD_shiftIn_succ _ t h, ih (by omega), List.getD_cons_succ]

theorem byteOf_eq_serialByte {t : List Bool} (h : t.length = 8) : byteOf t = some (serialByte 0 t) := by
  rw [byteOf_eq_some_iff, bitsOf_singleton]
  refine List.ext_getElem h.symm fun q hq hq' => ?_
  have hr : 7 - q < t.reverse.length := by rw [List.length_reverse]; omega
  rw [List.getElem_eq_iff, getElem?_bitsOfByte _ _ hq, getLsbD_serialByte t (by omega), List.getD_eq_getElem _ _ hr,
    List.getElem_reverse]
  congr 2
  rw [length_bitsOfByte] at hq
  omega

/-- Settles O14: the serialiser emits bit 7 first, and the deserialiser shifts the first bit up to bit 7. -/
theorem serialFormsAgree : Obligations.SerialFormsAgree :=
  ⟨serialBits_eight, fun _ => byteOf_eq_serialByte⟩

end Sys2Proof.Machine
end

section
/-! PROOFS. The packer commands (40_packer R105 to R108): RESULT bit by bit, and the end and the frame that the four share. -/

namespace Sys2Proof.Machine

/-- A packer command always ends with SUCCESS, and has scanned nothing (40_packer, section 2). -/
theorem State.packerDone_endsWith (s : State) (r : Word) : EndsWith (s.packerDone r) 0x00000002 :=
  have hword : packStatus false true Code.success.bits (scanBits none) false = 0x00000002 := by decide
  ⟨rfl, hword⟩

/-- A packer command writes RESULT and STATUS only (40_packer, section 2). -/
theorem State.packerDone_frame (s : State) (r : Word) : PackerFrame s (s.packerDone r) :=
  ⟨⟨rfl, rfl, rfl, rfl⟩, rfl, State.cell_eq_of_fields rfl rfl rfl rfl rfl rfl, rfl, rfl, rfl, rfl, rfl, rfl⟩

theorem State.bitsofResult_getLsbD (s : State) {k : Nat} (h : k < 8) : s.bitsofResult.getLsbD k = s.opa.getLsbD (7 - k) := by
  rw [State.bitsofResult, zext32_getLsbD, getLsbD_seqWord _ _ h, bitsOf_singleton, List.getD_eq_getElem?_getD,
    getElem?_bitsOfByte _ _ h, Option.getD_some, s.opaByte_getLsbD (by omega)]

/-- Settles O15: element `k` of the stream is bit `7 - k` of OPA, and stands in bit `k` of RESULT. -/
theorem bitsofReversesByte : Obligations.BitsofReversesByte :=
  ⟨decode_encode .bitsof, fun s => ⟨_, exec_bitsof s, fun _ => s.bitsofResult_getLsbD, fun _ => zext32_getLsbD_of_le _,
    s.packerDone_endsWith _, s.packerDone_frame _⟩⟩

/-- BYTEOF's RESULT is the byte whose bits, MSB first, are OPA's from bit 0 up (40_packer R106). -/
theorem State.exists_byteofResult (s : State) : ∃ b, s.byteofResult = zext32 b ∧ bitsOf [b] = wordSeq s.opaByte := by
  obtain ⟨b, hb⟩ := exists_byteOf (length_wordSeq s.opaByte)
  exact ⟨b, State.byteofResult_of hb, (byteOf_eq_some_iff _ b).1 hb⟩

theorem State.byteofResult_getLsbD (s : State) {k : Nat} (h : k < 8) : s.byteofResult.getLsbD (7 - k) = s.opa.getLsbD k := by
  obtain ⟨b, hr, hb⟩ := s.exists_byteofResult
  have hk := congrArg (·[k]?) hb
  simp only [bitsOf_singleton, getElem?_bitsOfByte b k h, getElem?_wordSeq _ k h, Option.some.injEq] at hk
  rw [hr, zext32_getLsbD, hk, s.opaByte_getLsbD h]

/-- Settles O16: the register form of OPA has eight elements, so `byteOf` answers and puts element `k` in bit `7 - k`. -/
theorem byteofReadsSequence : Obligations.ByteofReadsSequence := by
  refine ⟨decode_encode .byteof, fun s => ⟨_, exec_byteof s, fun _ => s.byteofResult_getLsbD, fun k hk => ?_,
    s.packerDone_endsWith _, s.packerDone_frame _⟩⟩
  obtain ⟨b, hr, -⟩ := s.exists_byteofResult
  rw [State.packerDone_result, hr, zext32_getLsbD_of_le b hk]

theorem State.wrlsbResult_getLsbD (s : State) (k : Nat) :
    s.wrlsbResult.getLsbD k = if k = 0 then s.opb.getLsbD 0 else s.opaByte.getLsbD k := by
  rw [State.wrlsbResult, zext32_getLsbD, getLsbD_writeBitToLSB, State.opbBit]

/-- Settles O17: bit 0 is OPB's, and each other bit is that of OPA's low byte. -/
theorem wrlsbSetsLowBit : Obligations.WrlsbSetsLowBit := by
  refine ⟨decode_encode .wrlsb, fun s => ⟨_, exec_wrlsb s, s.wrlsbResult_getLsbD 0, fun k h1 h8 => ?_,
    fun _ => zext32_getLsbD_of_le _, s.packerDone_endsWith _, s.packerDone_frame _⟩⟩
  rw [State.packerDone_result, s.wrlsbResult_getLsbD, if_neg (by omega), s.opaByte_getLsbD h8]

theorem zext32_bit8 (b : Bool) : zext32 (bit8 b) = if b = true then 0x00000001 else 0x00000000 := by
  revert b; decide

theorem State.readLSB_opaByte (s : State) : readLSB s.opaByte = decide (s.opa.toNat % 2 = 1) := by
  rw [readLSB_eq, s.opaByte_getLsbD (by omega), ← BitVec.testBit_toNat, Nat.testBit_zero]

theorem State.rdlsbResult_eq (s : State) : s.rdlsbResult = if s.opa.toNat % 2 = 1 then 0x00000001 else 0x00000000 := by
  simp only [State.rdlsbResult, zext32_bit8, s.readLSB_opaByte, decide_eq_true_eq]

/-- Settles O18: RESULT is the bit read, as a word. -/
theorem rdlsbReadsLowBit : Obligations.RdlsbReadsLowBit :=
  ⟨decode_encode .rdlsb, fun s => ⟨_, exec_rdlsb s, s.rdlsbResult_eq, s.packerDone_endsWith _, s.packerDone_frame _⟩⟩

end Sys2Proof.Machine
end

section
/-! PROOFS. The frame, the groups of a buffer and the scan that reads them (41_frame_codec R120, R124 to R128). -/

namespace Sys2Proof.Machine

/-- Settles O20: element `q` of a group's bit sequence is the LSB of its sample `q`, and stands in bit `7 - q`. -/
theorem groupByteBits : Obligations.GroupByteBits := by
  intro buf g q hq
  rw [groupByte, getLsbD_byteOf8 _ _ _ _ _ _ _ _ q hq]
  simp only [readLSB_eq]
  interval_cases q <;> rfl

theorem groupBytes_zero (buf : Nat → Byte) (len : Nat) : groupBytes buf 0 len = (List.range len).map (groupByte buf) := by
  simp [groupBytes]

/-- Groups that are each no terminator accumulate no zero byte (41_frame_codec R125). -/
theorem ne_zero_of_mem_groupBytes {buf : Nat → Byte} {len : Nat} (h : ∀ k, k < len → groupByte buf k ≠ terminator) :
    ∀ b ∈ groupBytes buf 0 len, b ≠ 0x00 := by
  intro b hb
  rw [groupBytes_zero] at hb
  obtain ⟨k, hk, rfl⟩ := List.mem_map.1 hb
  exact h k (List.mem_range.1 hk)

/-- Settles O21: the two ends of a scan, each with the groups before it. -/
theorem scanStopsAtFirstNul : Obligations.ScanStopsAtFirstNul := by
  intro buf n
  have hread : ∀ buf' : Nat → Byte, (∀ i, i < 8 * (n / 8) → buf' i = buf i) → scan buf' n = scan buf n :=
    fun _ h => scan_congr h
  obtain ⟨len, hlen, hs, ht, hn⟩ | ⟨hs, hn⟩ := scan_cases buf n
  · refine ⟨len, hlen.le, ?_, ?_, .inl ⟨?_, hlen, ht⟩, hread⟩ <;> rw [hs]
    · exact groupBytes_zero buf len
    · exact ne_zero_of_mem_groupBytes hn
  · refine ⟨capacity n, le_rfl, ?_, ?_, .inr ⟨?_, by unfold capacity; omega⟩, hread⟩ <;> rw [hs]
    · exact groupBytes_zero buf _
    · exact ne_zero_of_mem_groupBytes hn

/-- Settles O22: the marker test reads the first three bytes, and the classifier the test and the terminal state. -/
theorem classifierFourCases : Obligations.ClassifierFourCases := by
  refine fun c acc => ⟨hasMarker_iff c acc, fun h => ?_, fun h => ?_, fun msg hacc => ?_⟩
  · simp [classify, h]
  · simp [classify, h]
  · subst hacc
    simp [classify, (hasMarker_iff c _).2 ⟨msg, rfl⟩]

/-! ## What a decode answers, from the scan (41_frame_codec R127) -/

theorem decodeResult_noMessage_iff (c : Params) (buf : Nat → Byte) (n : Nat) :
    decodeResult c buf n = .noMessage ↔ hasMarker c (scan buf n).2 = false := by
  rw [decodeResult_eq]
  obtain h | h := scan_ends buf n <;> rw [h] <;> cases hm : hasMarker c (scan buf n).2 <;> simp [classify, hm]

theorem decodeResult_malformed_iff (c : Params) (buf : Nat → Byte) (n : Nat) :
    decodeResult c buf n = .malformed ↔ (scan buf n).1 = .exhausted ∧ hasMarker c (scan buf n).2 = true := by
  rw [decodeResult_eq]
  obtain h | h := scan_ends buf n <;> rw [h] <;> cases hm : hasMarker c (scan buf n).2 <;> simp [classify, hm]

/-- A decoded message stands between three groups of MARKER and the terminator's group (41_frame_codec R125). -/
theorem length_add_four_le_capacity {c : Params} {buf : Nat → Byte} {n : Nat} {msg : List Byte}
    (h : decodeResult c buf n = .success msg) : msg.length + 4 ≤ capacity n := by
  obtain ⟨ht, hm, rfl⟩ := (decodeResult_success_iff ..).1 h
  obtain ⟨len, hlen, hs, -⟩ | ⟨hs, -⟩ := scan_cases buf n <;> rw [hs] at ht hm ⊢
  · obtain ⟨hthree, -⟩ := (hasMarker_groupBytes ..).1 hm
    rw [List.length_drop, length_groupBytes]
    omega
  · cases ht

theorem drop_groupBytes (buf : Nat → Byte) (len : Nat) : (groupBytes buf 0 (len + 3)).drop 3 = groupBytes buf 3 len := by
  simp only [groupBytes_succ, List.drop_succ_cons, List.drop_zero, Nat.zero_add, Nat.reduceAdd]

/-- A buffer that carries MARKER, then `len` groups, then the first zero group: the groups between are the message
(41_frame_codec R127). -/
theorem decodeResult_of_groups {c : Params} {buf : Nat → Byte} {n len : Nat} (hlen : len + 3 < capacity n)
    (h0 : groupByte buf 0 = c.m0) (h1 : groupByte buf 1 = c.m1) (h2 : groupByte buf 2 = c.m2)
    (ht : groupByte buf (len + 3) = terminator) (hn : ∀ k, k < len + 3 → groupByte buf k ≠ terminator) :
    decodeResult c buf n = .success (groupBytes buf 3 len) := by
  rw [decodeResult_success_iff, scan_terminated hlen ht hn]
  exact ⟨rfl, (hasMarker_groupBytes ..).2 ⟨by omega, h0, h1, h2⟩, (drop_groupBytes buf len).symm⟩

end Sys2Proof.Machine
end

section
/-! PROOFS. DECODE: its outputs after each outcome, and what it leaves alone (41_frame_codec R129, R130, R141). -/

namespace Sys2Proof.Machine

section
variable {s t : State}

/-- The word STATUS reads after `finish` (10_state R23, R27). -/
theorem EndsWith.finish (s : State) (d : Nat) (c : Code) (st : Option ScanState) (p : Bool) :
    EndsWith (s.finish d c st p) (packStatus false true c.bits (scanBits st) p) := ⟨rfl, rfl⟩

/-- DECODE writes MOUT, MSG_OUT_LEN and STATUS only (41_frame_codec R130). -/
theorem State.decodeDone_frame (s : State) (d : Nat) : DecodeFrame s (s.decodeDone d) := by
  obtain ⟨hsrc, hmin, hregs, hcfg⟩ := s.decodeDone_sameInputs d
  obtain ⟨-, h⟩ | ⟨-, ⟨msg, -, h⟩ | ⟨-, -, h⟩ | ⟨-, -, -, h⟩⟩ := s.decodeDone_cases d <;>
    exact ⟨hregs, by simp [h], hsrc, State.cell_congr (sp := .dst) (by simp [h]) hcfg (by simp [h]), hmin, hcfg,
      by simp [h], by simp [h], by simp [h], by simp [h], by simp [h]⟩

theorem exec_decode_frame (h : exec .decode s = .next t) : DecodeFrame s t := by
  cases h
  exact s.nextDraw.decodeDone_frame s.draws

/-- What DECODE leaves when it finds the message `msg` (41_frame_codec R129, R130). -/
structure DecodedTo (s : State) (msg : List Byte) (t : State) : Prop where
  ends   : EndsWith t 0x00000602
  outLen : t.msgOutLen.toNat = msg.length
  mout   : ∀ k, t.cell .mout k = if k < msg.length then msg.getD k 0 else s.cell .mout k

theorem exec_decode_success (hn : s.decodeArgsOk) {msg : List Byte} (hr : decodeResult s.cfg s.sample s.n = .success msg) :
    ∃ t, exec .decode s = .next t ∧ DecodedTo s msg t := by
  refine ⟨_, exec_decode_of (State.decodeDone_success (s := s.nextDraw) hn hr _), EndsWith.finish .., ?_, fun k => ?_⟩
  · have hlen : msg.length < 2 ^ 32 :=
      calc msg.length ≤ capacity s.n := Nat.le_of_add_right_le (length_add_four_le_capacity hr)
        _ < 2 ^ 32 := capacity_lt_word s.bufLen
    simpa using hlen
  · simp [State.cell_decodeSucceeded]

/-- What DECODE leaves when SRC holds no frame (41_frame_codec R130): MSG_OUT_LEN is 0, and MOUT is as before but for the cells
below both the capacity and the depth. -/
structure DecodeFailed (s t : State) : Prop where
  outLen : t.msgOutLen = 0
  mout   : ∀ k, capacity s.n ≤ k ∨ s.cfg.moutDepth ≤ k → t.cell .mout k = s.cell .mout k

theorem DecodeFailed.finish_nextDraw (s : State) (d : Nat) (c : Code) (st : Option ScanState) (p : Bool) :
    DecodeFailed s ((s.nextDraw.decodeFailed d (capacity s.n)).finish d c st p) := by
  refine ⟨by simp, fun k hk => ?_⟩
  have hk : Nat.min (capacity s.n) s.cfg.moutDepth ≤ k := min_le_iff.2 hk
  simp [State.cell_decodeFailed, Nat.not_lt.2 hk]

/-- No MARKER: NO_MESSAGE with the scan's terminal state (60_exceptions R164). -/
theorem exec_decode_noMessage (hn : s.decodeArgsOk) (hr : decodeResult s.cfg s.sample s.n = .noMessage) :
    ∃ t, exec .decode s = .next t ∧ EndsWith t (packStatus false true 0x3 (scanBits (some (scan s.sample s.n).1)) false)
      ∧ t.status.err = 0x3 ∧ DecodeFailed s t := by
  have hm : hasMarker s.nextDraw.cfg (scan s.nextDraw.sample s.nextDraw.n).2 = false := (decodeResult_noMessage_iff ..).1 hr
  have he := exec_decode_of (State.decodeDone_noMessage (s := s.nextDraw) hn hr s.draws)
  rw [hm] at he
  exact ⟨_, he, EndsWith.finish .., rfl, DecodeFailed.finish_nextDraw ..⟩

/-- MARKER without a terminator: MALFORMED (60_exceptions R165). -/
theorem exec_decode_malformed (hn : s.decodeArgsOk) (hr : decodeResult s.cfg s.sample s.n = .malformed) :
    ∃ t, exec .decode s = .next t ∧ EndsWith t 0x00000742 ∧ DecodeFailed s t :=
  ⟨_, exec_decode_of (State.decodeDone_malformed (s := s.nextDraw) hn hr _), EndsWith.finish ..,
    DecodeFailed.finish_nextDraw ..⟩

/-- Whichever of the two failures a SRC without a frame gives. -/
theorem exec_decode_failed (hn : s.decodeArgsOk) (hf : ¬ s.holdsFrame) : ∃ t, exec .decode s = .next t ∧ DecodeFailed s t := by
  cases hr : decodeResult s.cfg s.sample s.n with
  | success msg => exact absurd ⟨msg, hr⟩ hf
  | noMessage =>
    obtain ⟨t, he, -, -, hd⟩ := exec_decode_noMessage hn hr
    exact ⟨t, he, hd⟩
  | malformed =>
    obtain ⟨t, he, -, hd⟩ := exec_decode_malformed hn hr
    exact ⟨t, he, hd⟩

/-- A length above the depth: BAD_ARG (60_exceptions R163). -/
theorem exec_decode_badArg (hn : ¬ s.decodeArgsOk) :
    exec .decode s = .next (s.nextDraw.finish s.draws .badArg none false) :=
  exec_decode_of (State.decodeDone_badArg (s := s.nextDraw) (Nat.lt_of_not_le hn) _)

/-- The message of a frame fits MOUT (00_scope R10, 41_frame_codec R130). -/
theorem length_le_moutDepth (hc : s.cfg.wellFormed = true) (hn : s.decodeArgsOk) {msg : List Byte}
    (hr : decodeResult s.cfg s.sample s.n = .success msg) : msg.length ≤ s.cfg.moutDepth :=
  calc msg.length ≤ s.n / 8 - 4 := length_le_of_decodeResult hr
    _ ≤ s.cfg.bufDepth / 8 - 4 := Nat.sub_le_sub_right (Nat.div_le_div_right hn) 4
    _ ≤ s.cfg.moutDepth := Params.mout_room hc

end

/-- Settles O23: the groups between MARKER and the first zero group are what the decode answers. -/
theorem decodeRecoversMessage : Obligations.DecodeRecoversMessage := by
  intro s len hn hthree hlen ⟨h0, h1, h2⟩ ht hnz
  obtain ⟨m, rfl⟩ := Nat.exists_eq_add_of_le' hthree
  have hr : decodeResult s.cfg s.sample s.n = .success (groupBytes s.sample 3 m) :=
    decodeResult_of_groups hlen h0 h1 h2 ht hnz
  obtain ⟨t, he, hd⟩ := exec_decode_success hn hr
  have hmout := hd.mout
  rw [length_groupBytes] at hmout
  refine ⟨t, he, hd.ends, by rw [hd.outLen, length_groupBytes]; rfl, fun k hk => ?_, fun k hk => ?_, fun hc => ?_,
    exec_decode_frame he⟩
  · have hk : k < m := hk
    rw [hmout, if_pos hk, List.getD_eq_getElem?_getD, getElem?_groupBytes, if_pos hk, Option.getD_some]
  · rw [hmout, if_neg (by omega)]
  · simpa [length_groupBytes] using length_le_moutDepth hc hn hr

/-- Settles O26: by the length check, then by whether SRC holds a frame. -/
theorem decodeOutputs : Obligations.DecodeOutputs := by
  intro s
  by_cases hn : s.decodeArgsOk
  · by_cases hf : s.holdsFrame
    · obtain ⟨msg, hr⟩ := hf
      obtain ⟨t, he, hd⟩ := exec_decode_success hn hr
      refine ⟨t, he, exec_decode_frame he, fun h => absurd hn h, fun _ msg' hr' => ?_, fun _ h => absurd ⟨msg, hr⟩ h⟩
      cases hr.symm.trans hr'
      refine ⟨hd.outLen, length_add_four_le_capacity hr, fun k b hk => ?_, fun k hk => ?_,
        fun hc => length_le_moutDepth hc hn hr⟩
      · obtain ⟨hlt, -⟩ := List.getElem?_eq_some_iff.1 hk
        rw [hd.mout, if_pos hlt, List.getD_eq_getElem?_getD, hk, Option.getD_some]
      · rw [hd.mout, if_neg (Nat.not_lt.2 hk)]
    · obtain ⟨t, he, hd⟩ := exec_decode_failed hn hf
      exact ⟨t, he, exec_decode_frame he, fun h => absurd hn h, fun _ msg hr => absurd ⟨msg, hr⟩ hf,
        fun _ _ => ⟨hd.outLen, hd.mout⟩⟩
  · have he := exec_decode_badArg hn
    exact ⟨_, he, exec_decode_frame he, fun _ => ⟨rfl, fun _ => rfl⟩, fun h => absurd h hn, fun h => absurd h hn⟩

/-! ## The groups of MARKER -/

theorem Params.marker_ne_terminator {c : Params} (h : c.wellFormed = true) :
    c.m0 ≠ terminator ∧ c.m1 ≠ terminator ∧ c.m2 ≠ terminator := by
  have nonzero : ∀ {b : Byte}, markerByteOk b = true → b ≠ terminator := by
    rintro b hb rfl
    exact absurd hb (by decide)
  simp only [Params.wellFormed, markerWellFormed, Params.marker, Bool.and_eq_true, List.all_cons, List.all_nil] at h
  obtain ⟨-, -, h0, h1, h2, -⟩ := h
  exact ⟨nonzero h0, nonzero h1, nonzero h2⟩

/-- No byte of MARKER is the terminator, so the first zero group comes after it (00_scope R11). -/
theorem State.markerInSrc.ne_terminator {s : State} (hm : s.markerInSrc) (hc : s.cfg.wellFormed = true) {len : Nat}
    (hn : ∀ k, k < len → groupByte s.sample (k + 3) ≠ terminator) : ∀ k, k < len + 3 → groupByte s.sample k ≠ terminator := by
  obtain ⟨h0, h1, h2⟩ := hm
  obtain ⟨z0, z1, z2⟩ := Params.marker_ne_terminator hc
  intro k hk
  match k with
  | 0 => rwa [h0]
  | 1 => rwa [h1]
  | 2 => rwa [h2]
  | k + 3 => exact hn k (by omega)

/-- Settles O41: without MARKER the decode is NO_MESSAGE; with it, a group of ones is no terminator, so the scan is exhausted. -/
theorem untouchedAndTruncatedBuffers : Obligations.UntouchedAndTruncatedBuffers := by
  refine ⟨fun s hn hm => ?_, fun s hc hn h24 hm hones => ?_⟩
  · obtain ⟨t, he, -, herr, hd⟩ := exec_decode_noMessage hn ((decodeResult_noMessage_iff ..).2 hm)
    exact ⟨t, he, herr, hd.outLen⟩
  · obtain ⟨len, hlen⟩ : ∃ len, capacity s.n = len + 3 :=
      Nat.exists_eq_add_of_le' (show 3 ≤ s.bufLen.toNat / 8 by omega)
    have hnz : ∀ k, k < len + 3 → groupByte s.sample k ≠ terminator := by
      refine hm.ne_terminator hc fun k hk hzero => ?_
      have hin : 8 * (k + 3) < s.bufLen.toNat := by unfold capacity State.n at hlen; omega
      have hone := (groupByteBits s.sample (k + 3) 0 (by omega)).trans (hones _ (by omega) hin)
      rw [hzero] at hone
      exact absurd hone (by decide)
    have hr : decodeResult s.cfg s.sample s.n = .malformed := by
      rw [decodeResult_malformed_iff, scan_exhausted (hlen ▸ hnz), hlen]
      exact ⟨rfl, (hasMarker_groupBytes ..).2 ⟨by omega, hm⟩⟩
    obtain ⟨t, he, hends, hd⟩ := exec_decode_malformed hn hr
    exact ⟨t, he, hends, hd.outLen⟩

end Sys2Proof.Machine
end

section
/-! PROOFS. EMBED: the frame in DST, each failure, and what it leaves alone (41_frame_codec R121, R131 to R136). -/

namespace Sys2Proof.Machine

/-- EMBED writes DST and STATUS only (41_frame_codec R136). -/
theorem State.embedDone_frame (s : State) (d : Nat) : EmbedFrame s (s.embedDone d) := by
  obtain ⟨hsrc, hmin, hregs, hcfg⟩ := s.embedDone_sameInputs d
  obtain ⟨-, h⟩ | ⟨-, -, ⟨-, h⟩ | ⟨-, -, h⟩ | ⟨-, -, h⟩⟩ := s.embedDone_cases d <;>
    exact ⟨hregs, by simp [h], by simp [h], hsrc, hmin, State.cell_congr (sp := .mout) (by simp [h]) hcfg (by simp [h]), hcfg,
      by simp [h], by simp [h], by simp [h], by simp [h], by simp [h]⟩

theorem exec_embed_frame {s t : State} (h : exec .embed s = .next t) : EmbedFrame s t := by
  cases h
  exact s.nextDraw.embedDone_frame s.draws

section
variable {s : State}

/-! ## Each outcome of the command as dispatched -/

theorem exec_embed_badArg (h : ¬ s.embedArgsOk) : exec .embed s = .next (s.nextDraw.finish s.draws .badArg none false) := by
  rw [State.embedArgsOk, not_and_or, Nat.not_le, Nat.not_le] at h
  exact exec_embed_of (State.embedDone_badArg (s := s.nextDraw) h _)

theorem exec_embed_alreadyEncoded (ha : s.embedArgsOk) (h : s.holdsFrame) :
    exec .embed s = .next (s.nextDraw.finish s.draws .alreadyEncoded (some .terminated) true) :=
  exec_embed_of (State.embedDone_alreadyEncoded (s := s.nextDraw) ha.1 ha.2 h _)

theorem exec_embed_tooLarge (ha : s.embedArgsOk) (h : ¬ s.holdsFrame) (hc : capacity s.n < required s.l) :
    exec .embed s = .next (s.nextDraw.finish s.draws .tooLarge (some (scan s.sample s.n).1)
      (hasMarker s.cfg (scan s.sample s.n).2)) :=
  exec_embed_of (State.embedDone_tooLarge (s := s.nextDraw) ha.1 ha.2 h hc _)

theorem State.EmbedFits.exec_embed (h : s.EmbedFits) :
    exec .embed s = .next ((s.nextDraw.fill .dst s.embedded s.n).finish s.draws .success (some (scan s.sample s.n).1)
      (hasMarker s.cfg (scan s.sample s.n).2)) :=
  exec_embed_of (State.embedDone_success (s := s.nextDraw) h.n h.l h.noFrame h.capacity _)

/-- DST holds EMBED's buffer below its length, and is as before from there on (41_frame_codec R134, R135). -/
structure FrameInDst (s t : State) : Prop where
  below : ∀ i, i < s.n → t.cell .dst i = s.embedded i
  above : ∀ i, s.n ≤ i → t.cell .dst i = s.cell .dst i

/-- The frame is in DST, and STATUS is the duplicate-frame scan's (41_frame_codec R131, R134). -/
theorem State.EmbedFits.exists_exec (h : s.EmbedFits) : ∃ t, Machine.exec .embed s = .next t
    ∧ EndsWith t (packStatus false true 0x0 (scanBits (some (scan s.sample s.n).1)) (hasMarker s.cfg (scan s.sample s.n).2))
    ∧ t.status.err = 0x0 ∧ FrameInDst s t := by
  refine ⟨_, h.exec_embed, EndsWith.finish .., rfl, fun i hi => ?_, fun i hi => ?_⟩
  · simp [State.cell_fill, hi]
  · simp [State.cell_fill, Nat.not_lt.2 hi]

/-- Everything EMBED can end with (41_frame_codec R131, 60_exceptions R168): a failure changes STATUS only. -/
theorem exec_embed_cases (s : State) : ∃ t, exec .embed s = .next t ∧
    ((¬ s.embedArgsOk ∧ t.status.err = 0xE ∧ OnlyStatus s t)
      ∨ (s.embedArgsOk ∧ s.holdsFrame ∧ t.status.err = 0x2 ∧ OnlyStatus s t)
      ∨ (s.embedArgsOk ∧ ¬ s.holdsFrame ∧ capacity s.n < required s.l ∧ t.status.err = 0x1 ∧ OnlyStatus s t)
      ∨ (s.EmbedFits ∧ t.status.err = 0x0 ∧ FrameInDst s t)) := by
  by_cases ha : s.embedArgsOk
  · by_cases hf : s.holdsFrame
    · exact ⟨_, exec_embed_alreadyEncoded ha hf, .inr (.inl ⟨ha, hf, rfl, .finish_nextDraw ..⟩)⟩
    · by_cases hc : capacity s.n < required s.l
      · exact ⟨_, exec_embed_tooLarge ha hf hc, .inr (.inr (.inl ⟨ha, hf, hc, rfl, .finish_nextDraw ..⟩))⟩
      · have hfits : s.EmbedFits := ⟨ha.1, ha.2, hf, Nat.le_of_not_lt hc⟩
        obtain ⟨t, he, -, herr, hdst⟩ := hfits.exists_exec
        exact ⟨t, he, .inr (.inr (.inr ⟨hfits, herr, hdst⟩))⟩
  · exact ⟨_, exec_embed_badArg ha, .inl ⟨ha, rfl, .finish_nextDraw ..⟩⟩

/-- SUCCESS says that the frame fitted and is in DST. -/
theorem embedFits_of_success {t : State} (he : exec .embed s = .next t) (herr : t.status.err = 0x0) :
    s.EmbedFits ∧ FrameInDst s t := by
  obtain ⟨t', he', h⟩ := exec_embed_cases s
  cases he.symm.trans he'
  obtain ⟨-, h, -⟩ | ⟨-, -, h, -⟩ | ⟨-, -, -, h, -⟩ | ⟨hfits, -, hdst⟩ := h
  · exact absurd (h.symm.trans herr) (by decide)
  · exact absurd (h.symm.trans herr) (by decide)
  · exact absurd (h.symm.trans herr) (by decide)
  · exact ⟨hfits, hdst⟩

/-! ## The frame in DST -/

/-- The capacity check on samples (41_frame_codec R122, R123, R133). -/
theorem required_le_capacity_iff (l n : Nat) : required l ≤ capacity n ↔ 8 * (l + 4) ≤ n := by
  unfold required capacity; omega

theorem State.EmbedFits.frame_le (h : s.EmbedFits) : 8 * required s.l ≤ s.n := by
  have := (required_le_capacity_iff _ _).1 h.capacity
  unfold required; omega

/-- Bit `7 - (i mod 8)` of a frame byte stands in the LSB of sample `i` (41_frame_codec R121). -/
theorem State.embedded_getLsbD_zero {i : Nat} {b : Byte} (hb : (frame s.cfg (s.message s.l))[i / 8]? = some b) :
    (s.embedded i).getLsbD 0 = b.getLsbD (7 - i % 8) := by
  rw [State.embedded, embedSample, getElem?_bitsOf_eq, hb]
  exact getLsbD_writeBitToLSB _ _ 0

end

/-- Settles O19: bit `i` of the stream, carried by EMBED's buffer in the LSB of sample `i`. -/
theorem frameBitPlacement : Obligations.FrameBitPlacement := by
  refine ⟨fun c m => ⟨rfl, length_frame c m⟩, fun c m i b hb => ?_, fun s t he herr i b hb => ?_⟩
  · rw [getElem?_bitsOf_eq, hb, Option.map_some]
  · obtain ⟨hfits, hdst⟩ := embedFits_of_success he herr
    have hi : i / 8 < required s.l := by
      obtain ⟨hlt, -⟩ := List.getElem?_eq_some_iff.1 hb
      rwa [length_frame, length_message] at hlt
    have := hfits.frame_le
    rw [hdst.below i (by omega)]
    exact State.embedded_getLsbD_zero hb

theorem bit8_eq_ite (b : Bool) : bit8 b = if b then 1 else 0 := by
  cases b <;> rfl

/-- Settles O28: EMBED's buffer below the frame's end and beyond it. -/
theorem embedWritesFrame : Obligations.EmbedWritesFrame := by
  intro s ha hf hc
  have hreq : required s.l = s.msgInLen.toNat + 4 := by unfold required State.l; omega
  have hfits : s.EmbedFits := ⟨ha.1, ha.2, hf, hreq.symm ▸ hc⟩
  have hlen := hfits.frame_le
  obtain ⟨t, he, hends, -, hdst⟩ := hfits.exists_exec
  rw [hreq] at hlen
  refine ⟨t, he, hends, fun i hi => ?_, fun i hi hn => ?_, hdst.above, exec_embed_frame he⟩
  · refine ⟨s.frameByte s.l (i / 8), frameByte_eq s s.l (i / 8) (by omega), ?_⟩
    rw [hdst.below i (by omega), s.embedded_eq, if_pos (hreq.symm ▸ hi), writeBitToLSB, bit8_eq_ite]
    rfl
  · rw [hdst.below i hn, s.embedded_eq, if_neg (by omega)]
    rfl

/-- Settles O31: ALREADY_ENCODED is the outcome where SRC holds a frame, and no other outcome has its code. -/
theorem duplicateCheckIsDecode : Obligations.DuplicateCheckIsDecode := by
  intro s ha
  obtain ⟨t, he, h⟩ := exec_embed_cases s
  obtain ⟨-, hout, -, -, -, hmout, -⟩ := exec_embed_frame he
  refine ⟨t, he, ?_, hmout, hout⟩
  obtain ⟨hna, -⟩ | ⟨-, hf, herr, -⟩ | ⟨-, hf, -, herr, -⟩ | ⟨hfits, herr, -⟩ := h
  · exact absurd ha hna
  · exact iff_of_true herr hf
  · exact iff_of_false (by simp [herr]) hf
  · exact iff_of_false (by simp [herr]) hfits.noFrame

/-- Settles O32: a failure changes STATUS only, and EMBED's buffer is written below its length. -/
theorem embedWritesOnlyDst : Obligations.EmbedWritesOnlyDst := by
  intro s
  obtain ⟨t, he, h⟩ := exec_embed_cases s
  refine ⟨t, he, exec_embed_frame he, ?_⟩
  have failed : OnlyStatus s t → (t.status.err ≠ 0x0 → SameCells .dst s t) ∧
      ∀ i, s.bufLen.toNat ≤ i → t.cell .dst i = s.cell .dst i := by
    rintro ⟨⟨-, -, hcells, -⟩, -⟩
    exact ⟨fun _ => hcells .dst, fun i _ => hcells .dst i⟩
  obtain ⟨-, -, ho⟩ | ⟨-, -, -, ho⟩ | ⟨-, -, -, -, ho⟩ | ⟨-, herr, hdst⟩ := h
  · exact failed ho
  · exact failed ho
  · exact failed ho
  · exact ⟨fun hne => absurd herr hne, hdst.above⟩

/-- Settles O33: without a frame in SRC, the capacity check decides. -/
theorem capacityBoundary : Obligations.CapacityBoundary := by
  intro s ha hf
  have hfit : required s.l ≤ capacity s.n ↔ 8 * (s.msgInLen.toNat + 4) ≤ s.bufLen.toNat := required_le_capacity_iff s.l s.n
  obtain ⟨t, he, h⟩ := exec_embed_cases s
  refine ⟨t, he, ?_⟩
  obtain ⟨hna, -⟩ | ⟨-, hf', -⟩ | ⟨-, -, hc, herr, -⟩ | ⟨hfits, herr, -⟩ := h
  · exact absurd ha hna
  · exact absurd hf' hf
  · exact ⟨fun hle => absurd (hfit.2 hle) (by omega), fun _ => herr⟩
  · exact ⟨fun _ => herr, fun hlt => absurd (hfit.1 hfits.capacity) (by omega)⟩

/-- Settles O34: fewer than four groups hold no frame and are too few for one (41_frame_codec R131). -/
theorem shortBufferTooLarge : Obligations.ShortBufferTooLarge := by
  intro s ha hshort
  have hcap : capacity s.n < 4 := by unfold capacity State.n; omega
  have hf : ¬ s.holdsFrame := by
    rintro ⟨msg, hmsg⟩
    have := length_add_four_le_capacity hmsg
    omega
  exact ⟨_, exec_embed_tooLarge ha hf (by unfold required; omega), rfl, .finish_nextDraw ..⟩

end Sys2Proof.Machine
end

section
/-! PROOFS. A buffer that carries what EMBED wrote: what a DECODE and a second EMBED make of it (41_frame_codec R137, R138,
R141). -/

namespace Sys2Proof.Machine

/-- `u` is a block whose input buffer carries what an EMBED in `s` wrote to DST (70_reset R188). -/
structure Carries (s u : State) : Prop where
  params : s.cfg.wellFormed = true
  fits   : s.EmbedFits
  cfg    : u.cfg = s.cfg
  bufLen : u.bufLen = s.bufLen
  src    : ∀ i, i < s.n → u.sample i = s.embedded i

theorem Carries.of_dst {s t u : State} (hc : s.cfg.wellFormed = true) (hfits : s.EmbedFits)
    (hdst : FrameInDst s t) (hcfg : u.cfg = s.cfg)
    (hlen : u.bufLen = s.bufLen) (hsrc : ∀ i, i < s.n → u.cell .src i = t.cell .dst i) : Carries s u :=
  ⟨hc, hfits, hcfg, hlen, fun i hi => (hsrc i hi).trans (hdst.below i hi)⟩

/-- Frame byte `3 + k` is message byte `k`, or the terminator after the last (41_frame_codec R120). -/
theorem State.frameByte_add_three (s : State) (l k : Nat) :
    s.frameByte l (k + 3) = if k < l then s.msgByte k else terminator := rfl

/-- Where the first zero byte of a message stands, or where its frame's terminator does (41_frame_codec R137). -/
def State.FirstNul (s : State) (z : Nat) : Prop :=
  z ≤ s.l ∧ (z = s.l ∨ s.msgByte z = terminator) ∧ ∀ k, k < z → s.msgByte k ≠ terminator

theorem State.exists_firstNul (s : State) : ∃ z, s.FirstNul z := by
  have hex : ∃ z, z = s.l ∨ s.msgByte z = terminator := ⟨s.l, .inl rfl⟩
  exact ⟨Nat.find hex, Nat.find_min' hex (.inl rfl), Nat.find_spec hex, fun k hk h => Nat.find_min hex hk (.inr h)⟩

section
variable {s u : State} {z : Nat}

theorem Carries.n_eq (h : Carries s u) : u.n = s.n := congrArg BitVec.toNat h.bufLen

/-- Group `g` is frame byte `g` (41_frame_codec R121). -/
theorem Carries.groupByte_eq (h : Carries s u) {g : Nat} (hg : g < required s.l) : groupByte u.sample g = s.frameByte s.l g := by
  have := h.fits.frame_le
  rw [← groupByte_embedSample s s.l g hg]
  exact groupByte_congr fun q hq => h.src _ (by omega)

/-- The first three frame bytes are MARKER (41_frame_codec R120). -/
theorem Carries.markerInSrc (h : Carries s u) : u.markerInSrc := by
  have three : 3 < required s.l := by unfold required; omega
  rw [State.markerInSrc, h.cfg]
  exact ⟨h.groupByte_eq (by omega), h.groupByte_eq (by omega), h.groupByte_eq (by omega)⟩

/-- The decode of what EMBED wrote is the message up to its first zero byte (41_frame_codec R137). -/
theorem Carries.decodeResult_eq (h : Carries s u) (hz : s.FirstNul z) :
    decodeResult u.cfg u.sample u.n = .success (s.message z) := by
  obtain ⟨hzl, hnul, hnz⟩ := hz
  have byte : ∀ k, k ≤ z → groupByte u.sample (k + 3) = if k < s.l then s.msgByte k else terminator := fun k hk => by
    rw [h.groupByte_eq (by unfold required; omega), s.frameByte_add_three]
  have msg : ∀ k, k < z → groupByte u.sample (k + 3) = s.msgByte k := fun k hk => by
    rw [byte k hk.le, if_pos (by omega)]
  have ht : groupByte u.sample (z + 3) = terminator := by
    rw [byte z le_rfl]
    obtain rfl | hzero := hnul
    · exact if_neg (Nat.lt_irrefl _)
    · rw [hzero, ite_self]
  have hn : ∀ k, k < z + 3 → groupByte u.sample k ≠ terminator :=
    h.markerInSrc.ne_terminator (h.cfg ▸ h.params) fun k hk => msg k hk ▸ hnz k hk
  have hcap : z + 3 < capacity u.n := by
    have := h.fits.capacity
    rw [h.n_eq]
    unfold required at this; omega
  obtain ⟨h0, h1, h2⟩ := h.markerInSrc
  rw [decodeResult_of_groups hcap h0 h1 h2 ht hn]
  exact congrArg _ (List.map_congr_left fun k hk => Nat.add_comm k 3 ▸ msg k (List.mem_range.1 hk))

/-- DECODE of what EMBED wrote (41_frame_codec R137). -/
theorem Carries.exec_decode (h : Carries s u) (hz : s.FirstNul z) : ∃ v, exec .decode u = .next v ∧ EndsWith v 0x00000602
    ∧ v.msgOutLen.toNat = z ∧ ∀ k, v.cell .mout k = if k < z then s.cell .min k else u.cell .mout k := by
  have hn : u.decodeArgsOk := by
    rw [State.decodeArgsOk, h.bufLen, h.cfg]
    exact h.fits.n
  obtain ⟨v, he, hd⟩ := exec_decode_success hn (h.decodeResult_eq hz)
  refine ⟨v, he, hd.ends, by rw [hd.outLen, length_message], fun k => ?_⟩
  rw [hd.mout, length_message]
  split
  · next hk => rw [List.getD_eq_getElem?_getD, getElem?_message, if_pos hk]; rfl
  · rfl

end

/-- Settles O37: the first zero byte of the frame after its message is the terminator. -/
theorem embedDecodeRoundTrip : Obligations.EmbedDecodeRoundTrip := by
  intro s hc ha hf hreq hnz
  have hfits : s.EmbedFits := ⟨ha.1, ha.2, hf, hreq⟩
  obtain ⟨t, he, -, herr, hdst⟩ := hfits.exists_exec
  refine ⟨t, he, herr, fun u hcfg hlen hsrc => ?_⟩
  obtain ⟨v, hv, hends, hout, hmout⟩ := (Carries.of_dst hc hfits hdst hcfg hlen hsrc).exec_decode ⟨le_rfl, .inl rfl, hnz⟩
  exact ⟨v, hv, hends, BitVec.eq_of_toNat_eq hout, fun k hk => by rw [hmout, if_pos hk]⟩

/-- Settles O38: the whole message stands in the groups after MARKER, and DECODE stops at its first zero byte. -/
theorem decodeStopsAtFirstNulOfMessage : Obligations.DecodeStopsAtFirstNulOfMessage := by
  intro s z hc ha hf hreq hz hzero hnz
  have hfits : s.EmbedFits := ⟨ha.1, ha.2, hf, hreq⟩
  obtain ⟨t, he, -, herr, hdst⟩ := hfits.exists_exec
  refine ⟨t, he, herr, fun k hk => ?_, fun u hcfg hlen hsrc => ?_⟩
  · have := hfits.frame_le
    have hcongr : groupByte (t.cell .dst) (3 + k) = groupByte s.embedded (3 + k) :=
      groupByte_congr fun q hq => hdst.below _ (by unfold required at this; omega)
    rw [hcongr, State.embedded, groupByte_embedSample _ _ _ (by unfold required; omega), Nat.add_comm, s.frameByte_add_three,
      if_pos hk]
    rfl
  · obtain ⟨v, hv, hends, hout, hmout⟩ :=
      (Carries.of_dst hc hfits hdst hcfg hlen hsrc).exec_decode ⟨hz.le, .inr hzero, hnz⟩
    exact ⟨v, hv, hends, hout, fun k hk => by rw [hmout, if_pos hk]⟩

/-- Settles O39: a frame of no message is 32 samples, and its first zero byte is the terminator. -/
theorem emptyMessageRoundTrip : Obligations.EmptyMessageRoundTrip := by
  refine ⟨fun s ha _ hshort => shortBufferTooLarge s ha hshort, fun s hc ha hf hempty hn => ?_⟩
  have hl : s.l = 0 := congrArg BitVec.toNat hempty
  have hreq : 8 * required s.l = 32 := by rw [hl]; rfl
  have hfits : s.EmbedFits := ⟨ha.1, ha.2, hf, (required_le_capacity_iff _ _).2 (by rwa [hl])⟩
  obtain ⟨t, he, -, herr, hdst⟩ := hfits.exists_exec
  refine ⟨t, he, herr, fun i hi => ?_, fun i hi hlt => ?_, fun u hcfg hlen hsrc => ?_⟩
  · rw [hdst.below i (Nat.lt_of_lt_of_le hi hn), s.embedded_eq, if_pos (hreq.symm ▸ hi), writeBitToLSB_and]
    rfl
  · rw [hdst.below i hlt, s.embedded_eq, if_neg (by omega)]
    rfl
  · obtain ⟨v, hv, hends, hout, hmout⟩ := (Carries.of_dst hc hfits hdst hcfg hlen hsrc).exec_decode (z := 0)
      ⟨Nat.zero_le _, .inl hl.symm, fun k hk => absurd hk (Nat.not_lt_zero k)⟩
    exact ⟨v, hv, hends, BitVec.eq_of_toNat_eq hout, fun k => by rw [hmout, if_neg (Nat.not_lt_zero k)]⟩

/-- Settles O40: whatever message was embedded, the buffer that carries it decodes, so the duplicate-frame check finds a frame. -/
theorem secondEmbedRejected : Obligations.SecondEmbedRejected := by
  intro s t u hc he herr hcfg hlen hsrc hl
  obtain ⟨hfits, hdst⟩ := embedFits_of_success he herr
  have hu : Carries s u := .of_dst hc hfits hdst hcfg hlen hsrc
  obtain ⟨z, hz⟩ := s.exists_firstNul
  have hargs : u.embedArgsOk := ⟨by rw [hlen, hcfg]; exact hfits.n, hl⟩
  exact ⟨_, exec_embed_alreadyEncoded hargs ⟨_, hu.decodeResult_eq hz⟩, EndsWith.finish .., .finish_nextDraw ..⟩

end Sys2Proof.Machine
end

section
/-! PROOFS. The engine form with no host access pending: how many micro-steps a command takes, and where it ends
(41_frame_codec R140, 70_reset R191). -/

namespace Sys2Proof.Machine

/-- A command in the atomic form takes one free draw and touches neither queue of the host (logs 3, 5). -/
theorem exec_traffic {i : Instr} {s e : State} (h : exec i s = .next e) :
    e.draws = s.draws + 1 ∧ e.inbox = s.inbox ∧ e.outbox = s.outbox := by
  cases i with
  | bitsof | byteof | wrlsb | rdlsb => cases h; exact ⟨rfl, rfl, rfl⟩
  | embed =>
    cases h
    obtain ⟨-, h⟩ | ⟨-, -, ⟨-, h⟩ | ⟨-, -, h⟩ | ⟨-, -, h⟩⟩ := s.nextDraw.embedDone_cases s.draws <;> simp [h]
  | decode =>
    cases h
    obtain ⟨-, h⟩ | ⟨-, ⟨msg, -, h⟩ | ⟨-, -, h⟩ | ⟨-, -, -, h⟩⟩ := s.nextDraw.decodeDone_cases s.draws <;>
      simp [h]

theorem EngineKeeps.engineTurn (s : State) (job : Job) : EngineKeeps s (s.engineTurn job) := by
  refine (EngineKeeps.engineStep s job).trans ?_
  rw [State.engineTurn, State.drawSlots_eq]
  exact ⟨rfl, rfl, rfl, rfl, rfl, rfl, rfl, rfl, rfl, rfl, rfl, rfl⟩

/-- A command under way has a micro-step left (70_reset R191). -/
theorem Progress.left_pos {s : State} {i : Instr} {job : Job} {dst mout : Memory} (h : Progress s i job dst mout) :
    0 < job.left := by
  unfold Job.left
  cases h with
  | prim op hs hj => simp [hs]
  | scan c hs hj hw => simp only [hs]; omega
  | capchk hs hj hn hl hw => simp only [hs]; omega
  | write hs hj hf hw hi hsh =>
    simp only [hs, hj.n_eq]
    omega
  | output msg hs hj hn hr hlen hk =>
    have := length_add_four_le_capacity hr
    simp only [hs, hj.n_eq]
    omega

/-- With nothing pending, a command under way ends as in the atomic form within the micro-steps it has left. -/
theorem Progress.reaches {s : State} {i : Instr} {job : Job} {dst mout : Memory} (h : Progress s i job dst mout) (r : State)
    (hq : r.inbox = []) :
    ∃ k t, k ≤ job.left ∧ Reaches k (s.atWork r job dst mout) t ∧ AtomicEnd s i t
      ∧ EngineKeeps (s.atWork r job dst mout) t := by
  have hstep : step (s.atWork r job dst mout) = .next ((s.atWork r job dst mout).engineTurn job) := step_engine rfl (.inl hq)
  have hkeep := EngineKeeps.engineTurn (s.atWork r job dst mout) job
  rw [State.engineTurn] at hstep hkeep
  obtain ⟨job', dst', mout', ht, hp, hlt⟩ | hend := h.engineStep r
  · rw [ht] at hstep hkeep
    obtain ⟨k, t, hk, hr, hend, hkeep'⟩ :=
      (hp.slots (Config.hostSlots s.cfg.unit r.sched)).reaches r.nextSched hq
    have hk : k ≤ job'.left := hk
    exact ⟨k + 1, t, by omega, (reaches_succ_iff hstep k t).2 hr, hend, hkeep.trans hkeep'⟩
  · rw [State.drawSlots_of_idle hend.idle] at hstep hkeep
    exact ⟨1, _, h.left_pos, (reaches_succ_iff hstep 0 _).2 (.zero _), hend, hkeep⟩
termination_by job.left
decreasing_by exact hlt

/-- The bound counts the micro-steps of a command in its first phase (70_reset R191). -/
theorem Job.left_le_stepBound {job : Job} {i : Instr} (h : job.stage = firstStage i) : job.left ≤ stepBound i job.n.toNat := by
  unfold Job.left
  cases i with
  | bitsof | byteof | wrlsb | rdlsb => simp [h, firstStage, stepBound]
  | embed | decode =>
    simp only [h, firstStage, stepBound, Codec.stepsAfterScan]
    omega

/-- Settles O53: acceptance puts the command before its first micro-step, and each one leaves fewer. -/
theorem engineRefinesAtomic : Obligations.EngineRefinesAtomic := by
  intro s i _ hq
  obtain ⟨job, hbegin, hp⟩ := Progress.begin s i
  obtain ⟨k, t, hk, hr, ⟨e, hidle, hexec, hsame⟩, hkeep⟩ := hp.reaches (s.begin i) hq
  rw [← hbegin] at hr hkeep
  obtain ⟨hdraws, hin, hout⟩ := exec_traffic hexec
  have hjob := Engine.running.inj (congrArg State.engine hbegin)
  have hbound : job.left ≤ stepBound i s.n := by
    rw [← hjob]
    exact Job.left_le_stepBound rfl
  refine ⟨k, t, e, hk.trans hbound, hr, hidle, hexec, ?_⟩
  have hd : t.draws = e.draws := hkeep.draws.trans hdraws.symm
  have hi : t.inbox = e.inbox := hkeep.inbox.trans hin.symm
  have ho : t.outbox = e.outbox := hkeep.outbox.trans hout.symm
  rw [SameButTraffic, hd, hi, ho] at hsame
  exact hsame

end Sys2Proof.Machine
end

section
/-! PROOFS. The failures of the codec commands (60_exceptions R161 to R165, R167, R168): who raises each code, what each one leaves,
and which comes first. -/

namespace Sys2Proof.Machine

/-- The commands that can end with an outcome, "Raised by" of 60_exceptions R161 to R165; ILLEGAL comes of no command (R167). -/
def Code.raisers : Code → List Instr
  | .success => [.bitsof, .byteof, .wrlsb, .rdlsb, .embed, .decode]
  | .tooLarge | .alreadyEncoded => [.embed]
  | .noMessage | .malformed => [.decode]
  | .badArg => [.decode, .embed]
  | .illegal => []

theorem Code.raisedOnlyBy (c : Code) : RaisedOnlyBy c.bits c.raisers := by
  intro i s t h herr
  obtain ⟨-, hcode⟩ := codesRaisedBy i s t h
  rw [herr] at hcode
  cases c with
  | success => cases i <;> decide
  | tooLarge | alreadyEncoded | noMessage | malformed | badArg => simpa [Code.bits, Code.raisers, or_comm] using hcode
  | illegal => simp [Code.bits] at hcode

/-! ## BAD_ARG -/

/-- Settles O27: a length above its depth ends the command before anything but STATUS is written. -/
theorem badArgTouchesNothing : Obligations.BadArgTouchesNothing := by
  refine ⟨Code.raisedOnlyBy .badArg, fun s => ⟨fun hn => ?_, fun h => ?_⟩⟩
  · exact ⟨_, exec_decode_badArg (Nat.not_le.2 hn), EndsWith.finish .., .finish_nextDraw ..⟩
  · have ha : ¬ s.embedArgsOk := by rwa [State.embedArgsOk, not_and_or, Nat.not_le, Nat.not_le]
    exact ⟨_, exec_embed_badArg ha, EndsWith.finish .., .finish_nextDraw ..⟩

/-! ## The failures of DECODE -/

section
variable {s t : State}

/-- MSG_OUT_LEN, MOUT from the capacity up, and the frame, after a DECODE that found no message (41_frame_codec R130). -/
theorem DecodeFailed.leaves (h : DecodeFailed s t) (he : exec .decode s = .next t) :
    t.msgOutLen = 0 ∧ (∀ k, s.bufLen.toNat / 8 ≤ k → t.cell .mout k = s.cell .mout k) ∧ DecodeFrame s t :=
  ⟨h.outLen, fun k hk => h.mout k (.inl hk), exec_decode_frame he⟩

/-- A scan whose groups do not begin with MARKER ends in NO_MESSAGE, with its own terminal state (60_exceptions R164). -/
theorem exec_decode_noMessage_of_scan (hn : s.decodeArgsOk) {st : ScanState} {len : Nat}
    (hs : scan s.sample s.n = (st, groupBytes s.sample 0 len)) (hm : len < 3 ∨ ¬ s.markerInSrc) :
    ∃ t, exec .decode s = .next t ∧ EndsWith t (packStatus false true 0x3 (scanBits (some st)) false) ∧ DecodeFailed s t := by
  have hmark : hasMarker s.cfg (groupBytes s.sample 0 len) = false := by
    rw [Bool.eq_false_iff, ne_eq, hasMarker_groupBytes, not_and_or, Nat.not_le]
    exact hm
  have hr : decodeResult s.cfg s.sample s.n = .noMessage := by rwa [decodeResult_noMessage_iff, hs]
  obtain ⟨t, he, hends, -, hd⟩ := exec_decode_noMessage hn hr
  rw [hs] at hends
  exact ⟨t, he, hends, hd⟩

end

/-- Settles O24: where the scan ends is given by the first zero group, and the groups before it do not begin with MARKER. -/
theorem decodeNoMessage : Obligations.DecodeNoMessage := by
  refine ⟨Code.raisedOnlyBy .noMessage, fun s len hn _ hnz hm => ⟨fun hlt hzero => ?_, fun hlen => ?_⟩⟩
  · obtain ⟨t, he, hends, hd⟩ := exec_decode_noMessage_of_scan hn (scan_terminated hlt hzero hnz) hm
    exact ⟨t, he, hends, hd.leaves he⟩
  · subst hlen
    obtain ⟨t, he, hends, hd⟩ := exec_decode_noMessage_of_scan hn (scan_exhausted hnz) hm
    exact ⟨t, he, hends, hd.leaves he⟩

/-- Settles O25: no group is zero, so the scan is exhausted, and its groups begin with MARKER. -/
theorem decodeMalformed : Obligations.DecodeMalformed := by
  refine ⟨Code.raisedOnlyBy .malformed, fun s hn hthree hm hnz => ?_⟩
  have hs : scan s.sample s.n = (.exhausted, groupBytes s.sample 0 (capacity s.n)) := scan_exhausted hnz
  have hr : decodeResult s.cfg s.sample s.n = .malformed := by
    rw [decodeResult_malformed_iff, hs]
    exact ⟨rfl, (hasMarker_groupBytes ..).2 ⟨hthree, hm⟩⟩
  obtain ⟨t, he, hends, hd⟩ := exec_decode_malformed hn hr
  exact ⟨t, he, hends, hd.leaves he⟩

/-! ## The failures of EMBED -/

/-- Settles O29: the duplicate-frame check comes first, whatever message stands in MIN. -/
theorem embedAlreadyEncoded : Obligations.EmbedAlreadyEncoded :=
  ⟨Code.raisedOnlyBy .alreadyEncoded, fun _ ha hf =>
    ⟨_, exec_embed_alreadyEncoded ha hf, EndsWith.finish .., .finish_nextDraw ..⟩⟩

/-- Settles O30: a scan that ended at a terminator after MARKER would have found a frame. -/
theorem embedTooLarge : Obligations.EmbedTooLarge := by
  refine ⟨Code.raisedOnlyBy .tooLarge, fun s ha hf hc => ?_⟩
  have hlarge : capacity s.n < required s.l := by unfold capacity required State.n State.l; omega
  exact ⟨_, exec_embed_tooLarge ha hf hlarge, EndsWith.finish .., s.holdsFrame_iff.not.1 hf, .finish_nextDraw ..⟩

/-! ## Which failure comes first -/

/-- Everything DECODE can end with (41_frame_codec R129, 60_exceptions R168). -/
theorem exec_decode_cases (s : State) : ∃ t, exec .decode s = .next t ∧
    ((¬ s.decodeArgsOk ∧ t.status.err = 0xE)
      ∨ (s.decodeArgsOk ∧ s.holdsFrame ∧ t.status.err = 0x0)
      ∨ (s.decodeArgsOk ∧ decodeResult s.cfg s.sample s.n = .noMessage ∧ t.status.err = 0x3)
      ∨ (s.decodeArgsOk ∧ decodeResult s.cfg s.sample s.n = .malformed ∧ t.status.err = 0x4)) := by
  refine ⟨_, exec_decode s, ?_⟩
  obtain ⟨hn, h⟩ | ⟨hn, ⟨msg, hr, h⟩ | ⟨hr, -, h⟩ | ⟨hr, -, -, h⟩⟩ := s.nextDraw.decodeDone_cases s.draws <;> rw [h]
  · exact .inl ⟨Nat.not_le.2 hn, rfl⟩
  · exact .inr (.inl ⟨hn, ⟨msg, hr⟩, rfl⟩)
  · exact .inr (.inr (.inl ⟨hn, hr, rfl⟩))
  · exact .inr (.inr (.inr ⟨hn, hr, rfl⟩))

/-- Settles O35: an illegal word is no command, and the outcomes of EMBED and of DECODE exclude one another in the rule's order. -/
theorem failurePriority : Obligations.FailurePriority := by
  refine ⟨fun s w rest e hb hi hw => ?_, fun s => ?_, fun s => ?_⟩
  · exact ⟨_, (step_command hb hi).trans (State.accept_error hw _), rfl⟩
  · obtain ⟨t, he, h⟩ := exec_embed_cases s
    refine ⟨t, he, ?_⟩
    obtain ⟨ha, herr, -⟩ | ⟨ha, hf, herr, -⟩ | ⟨ha, hf, hc, herr, -⟩ | ⟨hfits, herr, -⟩ := h
    · simp [ha, herr]
    · simp [ha, hf, herr]
    · simp [ha, hf, hc, herr]
    · have ha : s.embedArgsOk := ⟨hfits.n, hfits.l⟩
      simp [ha, hfits.noFrame, hfits.capacity, herr]
  · obtain ⟨t, he, h⟩ := exec_decode_cases s
    refine ⟨t, he, ?_⟩
    obtain ⟨ha, herr⟩ | ⟨ha, ⟨msg, hr⟩, herr⟩ | ⟨ha, hr, herr⟩ | ⟨ha, hr, herr⟩ := h
    · simp [ha, herr]
    · simp [ha, hr, herr]
    · simp [State.holdsFrame, ha, hr, herr]
    · simp [State.holdsFrame, ha, hr, herr]

end Sys2Proof.Machine
end

section
/-! PROOFS. There is no trap (60_exceptions R160, R166): every operation a step is made of answers a next state. -/

namespace Sys2Proof.Machine

theorem exec_answers (i : Instr) (s : State) : ∃ t, exec i s = .next t := by
  cases i with
  | bitsof => exact ⟨_, exec_bitsof s⟩
  | byteof => exact ⟨_, exec_byteof s⟩
  | wrlsb => exact ⟨_, exec_wrlsb s⟩
  | rdlsb => exact ⟨_, exec_rdlsb s⟩
  | embed => exact ⟨_, exec_embed s⟩
  | decode => exact ⟨_, exec_decode s⟩

/-- An illegal word finishes at once, and a command is performed in either form (30_encoding R75). -/
theorem State.accept_answers (s : State) (w : Word) : ∃ t, s.accept w = .next t := by
  cases hw : Sys2Proof.decode w with
  | error e => exact ⟨_, State.accept_error hw s⟩
  | ok i =>
    cases hf : s.form with
    | atomic => rw [State.accept_atomic hf hw]; exact exec_answers i s
    | stepped => exact ⟨_, State.accept_stepped hf hw⟩

theorem State.hostWrite_answers (s : State) (off : Byte) (v : Word) : ∃ t, s.hostWrite off v = .next t := by
  obtain ⟨-, -, h⟩ | ⟨t, h, -⟩ := s.hostWrite_cases off v
  · rw [h]; exact s.accept_answers v
  · exact ⟨t, h⟩

theorem State.perform_answers (s : State) (e : Event) : ∃ t, s.perform e = .next t := by
  cases e with
  | wr off v => exact s.hostWrite_answers off v
  | wrLast off => exact s.hostWrite_answers off s.hostVar
  | rd off | wrb sp a v | rdb sp a | poll | wrbLast sp a | reset => exact ⟨_, rfl⟩

/-- Settles O42, by the three things a step can do: nothing, a micro-step of the engine, or one input. -/
theorem everyStepAnswers : Obligations.EveryStepAnswers := by
  intro s
  obtain ⟨-, -, h⟩ | ⟨job, -, -, h⟩ | ⟨e, rest, -, -, h⟩ := step_cases s
  · exact ⟨s, h⟩
  · exact ⟨_, h⟩
  · rw [h]; exact State.perform_answers _ e

end Sys2Proof.Machine
end

section
/-! PROOFS. An outcome stays (60_exceptions R169): of all inputs only a command issue and a reset write an output. -/

namespace Sys2Proof.Machine

/-- The input writes CMD or resets the block (60_exceptions R169). -/
def Event.IssuesOrResets : Event → Prop
  | .wr off _ | .wrLast off => Reg.at off = some .cmd
  | .reset => True
  | .rd _ | .wrb _ _ _ | .rdb _ _ | .poll | .wrbLast _ _ => False

theorem HostKeeps.hostWrite {s t : State} {off : Byte} {v : Word} (hoff : Reg.at off ≠ some .cmd)
    (h : s.hostWrite off v = .next t) : HostKeeps s t := by
  obtain ⟨hcmd, -⟩ | ⟨t', ht', hk, -⟩ := s.hostWrite_cases off v
  · exact absurd hcmd hoff
  · cases ht'.symm.trans h
    exact hk

/-- Every other input keeps every output. -/
theorem HostKeeps.perform {s t : State} {e : Event} (he : ¬ e.IssuesOrResets) (h : s.perform e = .next t) : HostKeeps s t := by
  cases e with
  | wr off v => exact .hostWrite he h
  | wrLast off => exact .hostWrite he h
  | rd off => cases h; exact .deliver ..
  | rdb sp a => cases h; exact .deliver ..
  | wrb sp a v => cases h; exact .hostWriteByte ..
  | wrbLast sp a => cases h; exact .hostWriteByte ..
  | poll =>
    cases h
    split
    · exact (HostKeeps.deliver s _).trans (.setInbox ..)
    · exact .deliver ..
  | reset => exact absurd trivial he

section
variable {s t : State}

theorem HostKeeps.busy (h : HostKeeps s t) : t.busy = s.busy := by
  have hsame := h.engine
  unfold State.busy
  generalize s.engine = e at hsame ⊢
  generalize t.engine = e' at hsame ⊢
  cases hsame <;> rfl

theorem HostKeeps.statusWord (h : HostKeeps s t) : t.statusWord = s.statusWord := by
  rw [State.statusWord, h.busy, h.status, ← State.statusWord]

theorem HostKeeps.sameCells_dst (h : HostKeeps s t) : SameCells .dst s t :=
  State.cell_congr (sp := .dst) h.dst h.cfg h.epoch

theorem HostKeeps.sameCells_mout (h : HostKeeps s t) : SameCells .mout s t :=
  State.cell_congr (sp := .mout) h.mout h.cfg h.epoch

/-- A step of an idle block keeps every output unless its input issues a command or resets. -/
theorem HostKeeps.step_idle (hb : s.busy = false) (h : step s = .next t)
    (hq : ∀ e rest, s.inbox = e :: rest → ¬ e.IssuesOrResets) : HostKeeps s t := by
  cases hi : s.inbox with
  | nil =>
    cases (step_idle_nil hb hi).symm.trans h
    exact .refl s
  | cons e rest =>
    rw [Machine.step_idle hb hi] at h
    exact (HostKeeps.setInbox s rest).trans (.perform (hq e rest hi) h)

end

/-- Settles O46: the three hypotheses say that the next input neither issues a command nor resets. -/
theorem outcomeStaysUntilNextCommand : Obligations.OutcomeStaysUntilNextCommand := by
  intro s t hb h hwr hlast hreset
  have hq : ∀ e rest, s.inbox = e :: rest → ¬ e.IssuesOrResets := by
    intro e rest hi
    cases e with
    | wr off v => exact hwr off v rest hi
    | wrLast off => exact hlast off rest hi
    | reset => exact absurd hi (hreset rest)
    | rd off | wrb sp a v | rdb sp a | poll | wrbLast sp a => exact id
  have hk := HostKeeps.step_idle hb h hq
  exact ⟨hk.busy.trans hb, hk.statusWord, hk.msgOutLen, hk.result, hk.sameCells_dst, hk.sameCells_mout⟩

end Sys2Proof.Machine
end

section
/-! PROOFS. Several instances (60_exceptions R172): a turn is one step of one block. -/

namespace Sys2Proof.Machine

section
variable {y : System} {k : Nat} {turns : List Nat}

/-- A turn of no block passes. -/
theorem System.step_of_none (hy : y.turns = k :: turns) (hk : y.blocks[k]? = none) :
    y.step = .next { y with turns := turns } := by
  simp only [System.step, hy, hk]

theorem System.step_of_some {s s' : State} (hy : y.turns = k :: turns) (hk : y.blocks[k]? = some s)
    (hs : Machine.step s = .next s') : y.step = .next { blocks := y.blocks.set k s', turns := turns } := by
  simp only [System.step, hy, hk, hs]

end

/-- Settles O59: a turn puts the block's next state in its place, and every block has one. -/
theorem instancesShareNothing : Obligations.InstancesShareNothing := by
  intro y z k turns hy h
  cases hk : y.blocks[k]? with
  | none =>
    cases (System.step_of_none hy hk).symm.trans h
    exact ⟨rfl, rfl, fun _ _ => rfl, fun _ hs => nomatch hs⟩
  | some s =>
    obtain ⟨s', hs'⟩ := everyStepAnswers s
    cases (System.step_of_some hy hk hs').symm.trans h
    obtain ⟨hlt, -⟩ := List.getElem?_eq_some_iff.1 hk
    refine ⟨rfl, List.length_set, fun m hm => List.getElem?_set_ne hm.symm, fun _ hs => ?_⟩
    cases hs
    exact ⟨s', hs', List.getElem?_set_self hlt⟩

end Sys2Proof.Machine
end

section
/-! PROOFS. Host accesses between the micro-steps of a running command (70_reset R184 to R186): one slot is used, then the input
takes effect. -/

namespace Sys2Proof.Machine

/-- The running block as an input of the host finds it: the input is no longer pending, and one slot is used (log 9). -/
def State.granted (s : State) (job : Job) (rest : List Event) : State :=
  { s with inbox := rest, engine := .running { job with slots := job.slots - 1 } }

section
variable {s : State} {job : Job} {rest : List Event}

theorem State.busy_of_running (hj : s.engine = .running job) : s.busy = true := s.busy_eq_true_iff.2 ⟨job, hj⟩

/-- The host's turn beside a running command. -/
theorem step_granted {e : Event} (hj : s.engine = .running job) (hi : s.inbox = e :: rest) (hs : job.slots ≠ 0) :
    step s = (s.granted job rest).perform e := by
  rw [step_host hj hi hs, State.useSlot, hj]
  rfl

/-- The same for an input put in the place of the pending one. -/
theorem step_granted_cons (hj : s.engine = .running job) (hs : job.slots ≠ 0) (e : Event) :
    step { s with inbox := e :: rest } = (s.granted job rest).perform e :=
  step_granted (s := { s with inbox := e :: rest }) hj rfl hs

/-! ## Reads -/

/-- What a read of a register returns does not depend on the queue or the slots (70_reset R186). -/
theorem State.regWord_granted (hj : s.engine = .running job) (off : Byte) : (s.granted job rest).regWord off = s.regWord off := by
  have hb : (s.granted job rest).busy = true := State.busy_of_running rfl
  have hreg : ∀ r, (s.granted job rest).busyReg r = s.busyReg r := fun r => by cases r <;> rfl
  simp only [State.regWord, hb, State.busy_of_running hj, hreg, if_true]

/-- What a read of a cell returns does not depend on the queue or the slots (70_reset R186). -/
theorem State.cellByte_granted (hj : s.engine = .running job) (sp : Space) (a : Nat) :
    (s.granted job rest).cellByte sp a = s.cellByte sp a := by
  have hb : (s.granted job rest).busy = true := State.busy_of_running rfl
  cases sp <;> simp only [State.cellByte, hb, State.busy_of_running hj] <;> rfl

/-- While a command runs, STATUS reads as a STATUS word whose outcome fields are free (10_state R24, 70_reset R186). -/
theorem State.regWord_status_eq (hb : s.busy = true) : ∃ st : Status, s.regWord 0x04 = { s with status := st }.statusWord := by
  let w := freeStatusRead s.cfg.unit s.draws
  refine ⟨{ done := false, err := w.extractLsb' 4 4, scan := w.extractLsb' 8 2, pfx := w.getLsbD 10 }, ?_⟩
  have hb' : ∀ st : Status, { s with status := st }.busy = true := fun _ => hb
  simp only [State.statusWord, hb', State.regWord, Reg.at, if_true]
  rfl

/-- The reserved bits of STATUS read 0 also while a command runs (10_state R23). -/
theorem State.regWord_status_reserved (hb : s.busy = true) {k : Nat} (hk : k < 32) (hres : k = 2 ∨ k = 3 ∨ 11 ≤ k) :
    (s.regWord 0x04).getLsbD k = false := by
  obtain ⟨st, hst⟩ := State.regWord_status_eq hb
  rw [hst, statusWordLayout _ k hk, if_neg (by omega), if_neg (by omega), if_neg (by omega), if_neg (by omega),
    if_neg (by omega)]

/-- Settles O50: STATUS by its layout, the inputs and the views by the register file, SRC and MIN by the cell. -/
theorem busyReads : Obligations.BusyReads := by
  intro s hb
  obtain ⟨hbusy, hdone⟩ := State.regWord_status_busy hb
  obtain ⟨hcap, -⟩ := capacityAndMarkerViews s
  have hreg : ∀ off r, Reg.at off = some r → s.regWord off = s.busyReg r := fun off r hr => by
    simp only [State.regWord, hr, hb, if_true]
  exact ⟨hbusy, hdone, fun k hk hres => State.regWord_status_reserved hb hk hres, hreg _ .bufLen rfl, hreg _ .msgInLen rfl,
    hreg _ .opa rfl, hreg _ .opb rfl, hcap, s.regWord_marker, fun a ha => if_pos ha, fun a ha => if_pos ha⟩

/-- A read of a register takes a free draw and changes nothing else (log 11). -/
theorem State.hostRead_granted (hj : s.engine = .running job) (off : Byte) : (s.granted job rest).hostRead off =
    { s.granted job rest with draws := s.draws + 1, outbox := s.outbox ++ [.word (s.regWord off)] } := by
  rw [State.hostRead, State.regWord_granted hj]
  rfl

/-- A read of a cell takes a free draw and changes nothing else (log 11). -/
theorem State.hostReadByte_granted (hj : s.engine = .running job) (sp : Space) (a : Nat) :
    (s.granted job rest).hostReadByte sp a =
      { s.granted job rest with draws := s.draws + 1, outbox := s.outbox ++ [.byte (s.cellByte sp a)] } := by
  rw [State.hostReadByte, State.cellByte_granted hj]
  rfl

/-! ## Writes -/

/-- The input registers by their offsets (10_state R21, 70_reset R185). -/
theorem isInputReg_iff (off : Byte) : isInputReg off = true ↔ off = 0x08 ∨ off = 0x0C ∨ off = 0x18 ∨ off = 0x1C := by
  revert off
  decide +kernel

/-- A write to an input register lands and disturbs the command (70_reset R185). -/
theorem State.hostWrite_input (hj : s.engine = .running job) {off : Byte}
    (hoff : off = 0x08 ∨ off = 0x0C ∨ off = 0x18 ∨ off = 0x1C) (v : Word) :
    s.hostWrite off v = .next { s with
      engine := .running { job with disturbed := true }
      bufLen := if off = 0x08 then v else s.bufLen, msgInLen := if off = 0x0C then v else s.msgInLen
      opa := if off = 0x18 then v else s.opa, opb := if off = 0x1C then v else s.opb } := by
  rcases hoff with rfl | rfl | rfl | rfl <;> simp [State.hostWrite, Reg.at, State.disturb, hj]

/-- A byte write that reaches a cell a command may read lands and disturbs the command (20_memory R55, 70_reset R185). -/
theorem State.hostWriteByte_input (hj : s.engine = .running job) {sp : Space} {a : Nat} (hin : isInputCell s.cfg sp a = true)
    (v : Byte) : s.hostWriteByte sp a v = (s.setCell sp a v).continueJob { job with disturbed := true } := by
  have hdisturb : (s.setCell sp a v).disturb = (s.setCell sp a v).continueJob { job with disturbed := true } := by
    rw [State.disturb, State.setCell_engine, hj]
    rfl
  cases sp with
  | src | min => exact (if_pos (of_decide_eq_true hin)).trans hdisturb
  | dst | mout => cases hin

/-- The value of the last read is what a write of it writes (log 19). -/
theorem State.hostVar_of_getLast? {r : Reading} (h : s.outbox.getLast? = some r) : s.hostVar = r.toWord := by
  rw [State.hostVar, h]

theorem State.perform_wrLast {r : Reading} (h : s.outbox.getLast? = some r) (off : Byte) :
    s.perform (.wrLast off) = s.perform (.wr off r.toWord) :=
  congrArg (s.hostWrite off) (State.hostVar_of_getLast? h)

theorem State.perform_wrbLast {r : Reading} (h : s.outbox.getLast? = some r) (sp : Space) (a : Nat) :
    s.perform (.wrbLast sp a) = s.perform (.wrb sp a (r.toWord.setWidth 8)) :=
  congrArg (fun v : Word => Host.Outcome.next (s.hostWriteByte sp a (v.setWidth 8))) (State.hostVar_of_getLast? h)

/-- Settles O9: CMD is no input of the running command, so the write is ignored. -/
theorem commandWhileBusyIgnored : Obligations.CommandWhileBusyIgnored := by
  intro s job w rest hj hs hi
  have ignored : ∀ v, (s.granted job rest).hostWrite 0x00 v = .next (s.granted job rest) :=
    State.hostWrite_quiet (State.busy_of_running rfl) rfl
  obtain hi | hi := hi
  · exact (step_granted hj hi hs).trans (ignored w)
  · exact (step_granted hj hi hs).trans (ignored (s.granted job rest).hostVar)

/-- A byte write beside a running command: the cell and the mark of the disturbance, or nothing (20_memory R56, 70_reset R185). -/
theorem State.hostWriteByte_running (hj : s.engine = .running job) (sp : Space) (a : Nat) (b : Byte) :
    (s.hostWriteByte sp a b).engine = .running { job with disturbed := job.disturbed || isInputCell s.cfg sp a }
      ∧ ∀ sp' a', (s.hostWriteByte sp a b).cell sp' a' =
          if sp' = sp ∧ a' = a ∧ isInputCell s.cfg sp a = true then b else s.cell sp' a' := by
  cases hin : isInputCell s.cfg sp a with
  | true =>
    have hcell : ∀ t : State, ∀ job' sp' a', (t.continueJob job').cell sp' a' = t.cell sp' a' := fun t job' sp' a' =>
      State.cell_eq_of_fields rfl rfl rfl rfl rfl rfl sp' a'
    simp [State.hostWriteByte_input hj hin, hcell, State.cell_setCell]
  | false => simp [State.hostWriteByte_quiet hin, hj]

/-- A byte write reaches no register and no queue (20_memory R55). -/
theorem State.hostWriteByte_registers (s : State) (sp : Space) (a : Nat) (b : Byte) :
    SameHostRegs s (s.hostWriteByte sp a b) ∧ (s.hostWriteByte sp a b).inbox = s.inbox
      ∧ (s.hostWriteByte sp a b).outbox = s.outbox := by
  cases sp with
  | src | min => simp only [State.hostWriteByte]; split <;> simp [SameHostRegs]
  | dst | mout => exact ⟨⟨rfl, rfl, rfl, rfl⟩, rfl, rfl⟩

/-- Settles O51: each access is performed on the block with one slot less. -/
theorem hostAccessWhileBusy : Obligations.HostAccessWhileBusy := by
  intro s job rest off v sp a b hj hs
  have hbusy : (s.granted job rest).busy = true := State.busy_of_running rfl
  refine ⟨fun hi => ?_, fun hi => ?_, fun hi hoff => ?_, fun hi hoff => ?_, fun hi => ?_,
    fun r hr => ⟨fun hi => ?_, fun hi => ?_⟩, fun hi => ?_⟩
  · exact (step_granted hj hi hs).trans (congrArg _ (State.hostRead_granted hj off))
  · exact (step_granted hj hi hs).trans (congrArg _ (State.hostReadByte_granted hj sp a))
  · exact (step_granted hj hi hs).trans (State.hostWrite_input (s := s.granted job rest) rfl hoff v)
  · have hquiet : isInputReg off = false := by
      rw [← Bool.not_eq_true, isInputReg_iff]
      simpa only [not_or] using hoff
    exact (step_granted hj hi hs).trans (State.hostWrite_quiet hbusy hquiet v)
  · rw [step_granted hj hi hs, State.perform, if_pos hbusy, State.hostRead_granted hj]
    rfl
  · rw [step_granted hj hi hs, State.perform_wrLast (s := s.granted job rest) hr, step_granted_cons hj hs]
  · rw [step_granted hj hi hs, State.perform_wrbLast (s := s.granted job rest) hr, step_granted_cons hj hs]
  · obtain ⟨hengine, hcell⟩ := State.hostWriteByte_running (s := s.granted job rest) rfl sp a b
    obtain ⟨hregs, hin, hout⟩ := (s.granted job rest).hostWriteByte_registers sp a b
    have hk := HostKeeps.hostWriteByte (s.granted job rest) sp a b
    exact ⟨_, step_granted hj hi hs, hengine, hcell, hregs, hk.msgOutLen, hk.result, hk.status, hk.cfg, hin, hout⟩

end

end Sys2Proof.Machine
end

section
/-! PROOFS. What one micro-step can do, said once (41_frame_codec R140): it writes outputs of its command, then the command goes on
with fewer micro-steps left, or ends. -/

namespace Sys2Proof.Machine

/-! ## The cases -/

/-- What a micro-step of `job` may write before the command goes on or ends: outputs of its own command, and of DST the cell that the
index names (10_state R36, 20_memory R52, R54). -/
inductive Job.Writes (job : Job) (s : State) : State → Prop where
  | nothing : Writes job s s
  | result {op : Prim} (h : job.stage = .prim op) (r : Word) : Writes job s { s with result := r }
  | dst (h : job.stage = .write) (v : Byte) : Writes job s (s.setCell .dst job.work.i.toNat v)
  | mout (h : job.stage = .output) (a : Nat) (v : Byte) : Writes job s (s.setCell .mout a v)
  | msgOutLen (h : job.stage = .output) (v : Word) : Writes job s { s with msgOutLen := v }
  | decodeFailed (h : job.stage = .scan .decode) (d c : Nat) : Writes job s (s.decodeFailed d c)

/-- `job'` is `job` after a micro-step that does not end it: a codec command with the same lengths and, if its registers are good,
with fewer micro-steps left (70_reset R191). -/
structure Job.GoesOnAs (job job' : Job) (c : Params) : Prop where
  codec     : ∀ op, job.stage ≠ .prim op
  n         : job'.n = job.n
  l         : job'.l = job.l
  disturbed : job'.disturbed = job.disturbed
  left      : job.ok c → job'.left < job.left

/-- The states a micro-step of `job` can lead to. -/
inductive Job.MicroStep (job : Job) (s : State) : State → Prop where
  | goesOn {u : State} {job' : Job} (hw : job.Writes s u) (hj : job.GoesOnAs job' s.cfg) : MicroStep job s (u.continueJob job')
  | ends {u : State} (hw : job.Writes s u) (c : Code) (st : Option ScanState) (p : Bool) :
      MicroStep job s (u.finishJob job c st p)

section
variable {s : State} {job : Job}

theorem Job.MicroStep.leaveScan {c : Codec} (hc : job.stage = .scan c) (w : Work) : job.MicroStep s (s.leaveScan job c w) := by
  cases c with
  | embed =>
    refine .goesOn .nothing ⟨by simp [hc], rfl, rfl, rfl, fun _ => ?_⟩
    simp only [Job.left, hc, Codec.stepsAfterScan]
    omega
  | decode =>
    simp only [State.leaveScan]
    split
    · refine .goesOn .nothing ⟨by simp [hc], rfl, rfl, rfl, fun _ => ?_⟩
      simp only [Job.left, hc, Codec.stepsAfterScan]
      omega
    · exact .ends (.decodeFailed hc ..) ..
    · exact .ends (.decodeFailed hc ..) ..

/-- A group in hand lies within the buffer (41_frame_codec R126). -/
theorem Job.ok.group_lt {c : Params} {k : Codec} (hok : job.ok c) (hk : job.stage = .scan k)
    (hroom : ¬ (job.work.j = 0 ∧ job.n.toNat < 8 * (job.work.g.toNat + 1))) : job.work.g.toNat < capacity job.n.toNat := by
  simp only [Job.ok, hk] at hok
  obtain ⟨-, -, -, hj⟩ := hok
  unfold capacity
  by_cases h0 : job.work.j = 0
  · have : ¬ job.n.toNat < 8 * (job.work.g.toNat + 1) := fun hlt => hroom ⟨h0, hlt⟩
    omega
  · have := hj h0
    omega

/-- Phase SCAN: one bit more of the group in hand, or its end (41_frame_codec R126). -/
theorem Job.MicroStep.scanStep {c : Codec} (hc : job.stage = .scan c) : job.MicroStep s (s.scanStep job c) := by
  unfold State.scanStep
  dsimp only
  split
  · exact .ends .nothing ..
  split
  · exact .leaveScan hc _
  next hroom =>
  split
  · next hj =>
    split
    · exact .leaveScan hc _
    · refine .goesOn .nothing ⟨by simp [hc], rfl, rfl, rfl, fun hok => ?_⟩
      have hg := hok.group_lt hc hroom
      have hg' : (job.work.g + 1).toNat = job.work.g.toNat + 1 :=
        toNat_add_one_of_lt (n := job.n) (by unfold capacity at hg; omega)
      simp only [Job.left, hc, hj, hg', show (0 : BitVec 3).toNat = 0 from rfl, show (7 : BitVec 3).toNat = 7 from rfl]
      omega
  · next hj =>
    refine .goesOn .nothing ⟨by simp [hc], rfl, rfl, rfl, fun hok => ?_⟩
    have hg := hok.group_lt hc hroom
    have hj' : (job.work.j + 1).toNat = job.work.j.toNat + 1 := by bv_omega
    simp only [Job.left, hc, hj']
    omega

/-- Phase CAPCHK writes nothing (41_frame_codec R132, R133). -/
theorem Job.MicroStep.capchkStep (hc : job.stage = .capchk) : job.MicroStep s (s.capchkStep job) := by
  unfold State.capchkStep
  dsimp only
  split
  · exact .ends .nothing ..
  split
  · exact .ends .nothing ..
  · refine .goesOn .nothing ⟨by simp [hc], rfl, rfl, rfl, fun _ => ?_⟩
    simp only [Job.left, hc]
    omega

/-- Phase WRITE: one DST cell, and the index counts to `n` without wrapping (41_frame_codec R134). -/
theorem Job.MicroStep.writeStep (hc : job.stage = .write) : job.MicroStep s (s.writeStep job) := by
  unfold State.writeStep
  dsimp only
  split
  · next hi =>
    refine .goesOn (.dst hc _) ⟨by simp [hc], rfl, rfl, rfl, fun _ => ?_⟩
    have hi' : (job.work.i + 1).toNat = job.work.i.toNat + 1 := toNat_add_one_of_lt (n := job.n) (by omega)
    simp only [Job.left, hc, hi']
    omega
  · exact .ends (.dst hc _) ..

/-- Phase OUTPUT: one MOUT cell, or MSG_OUT_LEN and the end (41_frame_codec R140). -/
theorem Job.MicroStep.outputStep (hc : job.stage = .output) : job.MicroStep s (s.outputStep job) := by
  unfold State.outputStep
  dsimp only
  split
  · next hk =>
    refine .goesOn (.mout hc ..) ⟨by simp [hc], rfl, rfl, rfl, fun hok => ?_⟩
    simp only [Job.ok, hc] at hok
    obtain ⟨-, -, -, hcap, -⟩ := hok
    have hk' : (job.work.k + 1).toNat = job.work.k.toNat + 1 := toNat_add_one_of_lt (n := job.work.accLen) (by omega)
    simp only [Job.left, hc, hk']
    omega
  · exact .ends (.msgOutLen hc _) ..

/-- Every micro-step, by phase. -/
theorem Job.MicroStep.engineStep (s : State) (job : Job) : job.MicroStep s (s.engineStep job) := by
  unfold State.engineStep
  split
  · next hc => exact .ends (.result hc _) ..
  · next hc => exact .scanStep hc
  · next hc => exact .capchkStep hc
  · next hc => exact .writeStep hc
  · next hc => exact .outputStep hc

end

/-! ## What a micro-step leaves alone, by command -/

/-- The codec command a phase belongs to; none for a packer command (41_frame_codec R140). -/
def Stage.codec : Stage → Option Codec
  | .prim _ => none
  | .scan c => some c
  | .capchk | .write => some .embed
  | .output => some .decode

/-- What `job` leaves alone of the outputs: each is written by its own command only, and DST below the length only (10_state R36,
20_memory R52, R54). -/
structure Job.Spares (job : Job) (s t : State) : Prop where
  cfg       : t.cfg = s.cfg
  msgOutLen : job.stage.codec ≠ some .decode → t.msgOutLen = s.msgOutLen
  result    : job.stage.codec ≠ none → t.result = s.result
  dst       : job.stage.codec ≠ some .embed → t.dst = s.dst
  mout      : job.stage.codec ≠ some .decode → t.mout = s.mout
  dstAbove  : job.ok s.cfg → ∀ a, job.n.toNat ≤ a → t.cell .dst a = s.cell .dst a

section
variable {s : State} {job : Job}

theorem Job.Spares.refl (job : Job) (s : State) : job.Spares s s :=
  ⟨rfl, fun _ => rfl, fun _ => rfl, fun _ => rfl, fun _ => rfl, fun _ _ _ => rfl⟩

theorem Job.Spares.trans {a b c : State} (h : job.Spares a b) (k : job.Spares b c) : job.Spares a c where
  cfg := k.cfg.trans h.cfg
  msgOutLen hc := (k.msgOutLen hc).trans (h.msgOutLen hc)
  result hc := (k.result hc).trans (h.result hc)
  dst hc := (k.dst hc).trans (h.dst hc)
  mout hc := (k.mout hc).trans (h.mout hc)
  dstAbove hok i hi := (k.dstAbove (h.cfg ▸ hok) i hi).trans (h.dstAbove hok i hi)

/-- A change of RESULT is a packer command's. -/
theorem Job.Spares.setResult (hp : job.stage.codec = none) (r : Word) : job.Spares s { s with result := r } :=
  { Job.Spares.refl job s with result := fun hc => absurd hp hc }

/-- A change of MOUT or MSG_OUT_LEN is DECODE's. -/
theorem Job.Spares.decode {t : State} (hd : job.stage.codec = some .decode) (hcfg : t.cfg = s.cfg) (hresult : t.result = s.result)
    (hdst : t.dst = s.dst) (hepoch : t.epoch = s.epoch) : job.Spares s t where
  cfg := hcfg
  msgOutLen hc := absurd hd hc
  result _ := hresult
  dst _ := hdst
  mout hc := absurd hd hc
  dstAbove _ a _ := State.cell_congr (sp := .dst) hdst hcfg hepoch a

/-- A change of DST is EMBED's, and lies below the length. -/
theorem Job.Spares.embed {t : State} (he : job.stage.codec = some .embed) (hcfg : t.cfg = s.cfg) (hlen : t.msgOutLen = s.msgOutLen)
    (hresult : t.result = s.result) (hmout : t.mout = s.mout)
    (habove : job.ok s.cfg → ∀ a, job.n.toNat ≤ a → t.cell .dst a = s.cell .dst a) : job.Spares s t where
  cfg := hcfg
  msgOutLen _ := hlen
  result _ := hresult
  dst hc := absurd he hc
  mout _ := hmout
  dstAbove := habove

theorem Job.Writes.spares {u : State} (hw : job.Writes s u) : job.Spares s u := by
  cases hw with
  | nothing => exact .refl job s
  | result h r => exact .setResult (by rw [h]; rfl) r
  | dst h v =>
    refine .embed (by rw [h]; rfl) (by simp) (by simp) (by simp) (by simp) fun hok a ha => ?_
    simp only [Job.ok, h] at hok
    obtain ⟨-, -, -, -, hi⟩ := hok
    rw [State.cell_setCell, if_neg (by omega)]
  | mout h a v => exact .decode (by rw [h]; rfl) (by simp) (by simp) (by simp) (by simp)
  | msgOutLen h v => exact .decode (by rw [h]; rfl) rfl rfl rfl rfl
  | decodeFailed h d c => exact .decode (by rw [h]; rfl) (by simp) (by simp) (by simp) (by simp)

theorem Job.Writes.status {u : State} (hw : job.Writes s u) : u.status = s.status := by
  cases hw <;> simp

/-- What a disturbed command spoils are outputs of its own (70_reset R185). -/
theorem Job.Spares.spoilOutputs (job : Job) (s : State) : job.Spares s (s.spoilOutputs job) := by
  have embed (h : job.stage.codec = some .embed) : job.Spares s (s.spoil job.draw .dst (Nat.min job.n.toNat s.cfg.bufDepth)) := by
    refine .embed h (by simp) (by simp) (by simp) (by simp) fun _ a ha => ?_
    have hmin : ¬ a < Nat.min job.n.toNat s.cfg.bufDepth := Nat.not_lt.2 ((Nat.min_le_left ..).trans ha)
    rw [State.cell_spoil, if_neg fun h => hmin h.2]
  have decode (h : job.stage.codec = some .decode) : job.Spares s
      { s.spoil job.draw .mout s.cfg.moutDepth with msgOutLen := freeMsgOutLen s.cfg.unit job.draw } :=
    .decode h (by simp) (by simp) (by simp) (by simp)
  unfold State.spoilOutputs
  split
  · next h => exact .setResult (by rw [h]; rfl) _
  · next h => exact embed (by rw [h]; rfl)
  · next h => exact embed (by rw [h]; rfl)
  · next h => exact embed (by rw [h]; rfl)
  · next h => exact decode (by rw [h]; rfl)
  · next h => exact decode (by rw [h]; rfl)

/-- Ending a command touches STATUS and the engine, and spoils the outputs of a disturbed one. -/
theorem Job.Spares.finishJob (job : Job) (s : State) (c : Code) (st : Option ScanState) (p : Bool) :
    job.Spares s (s.finishJob job c st p) := by
  unfold State.finishJob
  split
  · exact { Job.Spares.spoilOutputs job s with }
  · exact { Job.Spares.refl job s with }

theorem Job.MicroStep.spares {t : State} (h : job.MicroStep s t) : job.Spares s t := by
  cases h with
  | goesOn hw => exact { hw.spares with }
  | ends hw c st p => exact hw.spares.trans (.finishJob job _ c st p)

theorem Job.Spares.engineTurn (s : State) (job : Job) : job.Spares s (s.engineTurn job) := by
  rw [State.engineTurn, State.drawSlots_eq]
  exact { (Job.MicroStep.engineStep s job).spares with }

/-- With the next slots drawn, the command goes on and STATUS stays, or it has ended with BUSY 0 and DONE 1 (10_state R25, R27). -/
theorem Job.MicroStep.drawSlots_cases {t : State} (h : job.MicroStep s t) :
    (∃ job', t.drawSlots.engine = .running job' ∧ job.GoesOnAs job' s.cfg ∧ t.drawSlots.status = s.status)
    ∨ (t.drawSlots.busy = false ∧ t.drawSlots.status.done = true) := by
  cases h with
  | goesOn hw hj => exact .inl ⟨_, rfl, { hj with }, hw.status⟩
  | ends hw c st p =>
    obtain ⟨hidle, hdone⟩ := State.finishJob_ends _ job c st p
    have hb := (State.busy_eq_false_iff _).2 ⟨_, hidle⟩
    rw [State.drawSlots_of_idle hb]
    exact .inr ⟨hb, hdone⟩

/-- The engine's turn: the command goes on and STATUS stays, or it has ended. -/
theorem State.engineTurn_cases (s : State) (job : Job) :
    (∃ job', (s.engineTurn job).engine = .running job' ∧ job.GoesOnAs job' s.cfg ∧ (s.engineTurn job).status = s.status)
    ∨ ((s.engineTurn job).busy = false ∧ (s.engineTurn job).status.done = true) :=
  (Job.MicroStep.engineStep s job).drawSlots_cases

end

/-- Settles O44: each output is spared by every command but its own, and a micro-step goes on or ends. -/
theorem microStepWritesOnlyItsOutputs : Obligations.MicroStepWritesOnlyItsOutputs := by
  intro s job hj hm
  have hsp := Job.Spares.engineTurn s job
  have hk := EngineKeeps.engineTurn s job
  have hcell : ∀ sp, (s.engineTurn job).mem sp = s.mem sp → SameCells sp s (s.engineTurn job) := fun _ h =>
    State.cell_congr h hk.cfg hk.epoch
  refine ⟨_, step_engine hj hm, ?_, ?_, ?_, ?_, ?_⟩
  · intro op hop
    have hc : job.stage.codec = none := by rw [hop]; rfl
    refine ⟨?_, hsp.msgOutLen (by simp [hc]), fun sp => ?_⟩
    · obtain ⟨job', -, hgo, -⟩ | ⟨hidle, -⟩ := s.engineTurn_cases job
      · exact absurd hop (hgo.codec op)
      · exact hidle
    · cases sp with
      | src => exact hcell .src hk.src
      | min => exact hcell .min hk.min
      | dst => exact hcell .dst (hsp.dst (by simp [hc]))
      | mout => exact hcell .mout (hsp.mout (by simp [hc]))
  · intro hembed
    have hc : job.stage.codec = some .embed := by rcases hembed with h | h | h <;> rw [h] <;> rfl
    exact ⟨hsp.msgOutLen (by simp [hc]), hsp.result (by simp [hc]), hcell .mout (hsp.mout (by simp [hc])), hsp.dstAbove⟩
  · intro hdecode
    have hc : job.stage.codec = some .decode := by rcases hdecode with h | h <;> rw [h] <;> rfl
    exact ⟨hsp.result (by simp [hc]), hcell .dst (hsp.dst (by simp [hc]))⟩
  · intro hb
    obtain ⟨job', hj', hgo, hst⟩ | ⟨hidle, -⟩ := s.engineTurn_cases job
    · exact ⟨hst, job', hj', hgo.n, hgo.l, hgo.disturbed⟩
    · simp [hidle] at hb
  · intro hb
    obtain ⟨job', hj', -⟩ | ⟨-, hdone⟩ := s.engineTurn_cases job
    · simp [State.busy_of_running hj'] at hb
    · rw [statusWordLayout _ 0 (by decide), statusWordLayout _ 1 (by decide)]
      exact ⟨hdone, hb, hdone⟩

end Sys2Proof.Machine
end

section
/-! PROOFS. A running command ends, whatever the host does meanwhile (70_reset R185, R191): an input uses a slot, a micro-step leaves
fewer of them, and a reset stops the engine at once. -/

namespace Sys2Proof.Machine

section
variable {s : State} {job : Job}

/-- A register write does no more to a running command than to mark it disturbed (70_reset R184, R185). -/
theorem State.hostWrite_running (hj : s.engine = .running job) (off : Byte) (v : Word) :
    ∃ t b, s.hostWrite off v = .next t ∧ t.engine = .running { job with disturbed := b } := by
  cases hin : isInputReg off with
  | true => exact ⟨_, true, State.hostWrite_input hj ((isInputReg_iff off).1 hin) v, rfl⟩
  | false => exact ⟨s, job.disturbed, State.hostWrite_quiet (State.busy_of_running hj) hin v, hj⟩

/-- An input does no more to a running command than to mark it disturbed, unless it is a reset (70_reset R182, R185). -/
theorem State.perform_running (hj : s.engine = .running job) (e : Event) :
    ∃ t, s.perform e = .next t ∧ (t.busy = false ∨ ∃ b, t.engine = .running { job with disturbed := b }) := by
  have written : ∀ off v, ∃ t, s.hostWrite off v = .next t
      ∧ (t.busy = false ∨ ∃ b, t.engine = .running { job with disturbed := b }) := fun off v => by
    obtain ⟨t, b, ht, hb⟩ := State.hostWrite_running hj off v
    exact ⟨t, ht, .inr ⟨b, hb⟩⟩
  cases e with
  | wr off v => exact written off v
  | wrLast off => exact written off s.hostVar
  | wrb sp a v => exact ⟨_, rfl, .inr ⟨_, (State.hostWriteByte_running hj sp a v).1⟩⟩
  | wrbLast sp a => exact ⟨_, rfl, .inr ⟨_, (State.hostWriteByte_running hj sp a _).1⟩⟩
  | rd off => exact ⟨_, rfl, .inr ⟨job.disturbed, hj⟩⟩
  | rdb sp a => exact ⟨_, rfl, .inr ⟨job.disturbed, hj⟩⟩
  | poll =>
    rw [State.perform, if_pos (State.busy_of_running hj)]
    exact ⟨_, rfl, .inr ⟨job.disturbed, hj⟩⟩
  | reset => exact ⟨_, rfl, .inl rfl⟩

end

/-- A good block with a command running comes to be idle: by the micro-steps left, and between two of them by the slots left
(logs 9, 13). -/
theorem State.Inv.busyUntil_idle {s : State} {job : Job} (h : s.Inv) (hj : s.engine = .running job) :
    BusyUntil (fun t => t.busy = false) s := by
  have hb := State.busy_of_running hj
  by_cases hm : s.inbox = [] ∨ job.slots = 0
  · refine .step hb (step_engine hj hm) ?_
    obtain ⟨job', hj', hgo, -⟩ | ⟨hidle, -⟩ := s.engineTurn_cases job
    · obtain ⟨-, hok⟩ := h.performing hj
      have hlt := hgo.left hok
      exact (h.engineTurn hj).busyUntil_idle hj'
    · exact .here hidle
  · obtain ⟨hne, hslots⟩ := not_or.1 hm
    obtain ⟨e, rest, hi⟩ := List.exists_cons_of_ne_nil hne
    obtain ⟨t, ht, hend⟩ := State.perform_running (s := s.granted job rest) rfl e
    have hstep := (step_granted hj hi hslots).trans ht
    refine .step hb hstep ?_
    obtain hidle | ⟨b, hj'⟩ := hend
    · exact .here hidle
    · exact (stepKeepsInvariant s t h hstep).busyUntil_idle hj'
termination_by (job.left, job.slots)
decreasing_by
  · exact .left _ _ hlt
  · exact .right _ (Nat.sub_one_lt hslots)

/-- Settles O55: the run of a good busy block is busy until it is idle. -/
theorem everyCommandEnds : Obligations.EveryCommandEnds := by
  intro s h hb
  obtain ⟨job, hj⟩ := s.busy_eq_true_iff.1 hb
  obtain ⟨k, t, hr, hidle, -⟩ := h.busyUntil_idle hj
  exact ⟨k, t, hr, hidle⟩

end Sys2Proof.Machine
end
